-- ==== Sys2Proof/Word.lean ====
section
/-! DEFINITION. The widths of the KSE (00_scope.md R7, R9): every value is an unsigned bit vector. -/

namespace Sys2Proof

/-- `u8`: a message byte, a state byte, a DOUT byte. -/
abbrev Byte := BitVec 8

/-- `u32`: one word of the host port (20_memory.md R76). -/
abbrev Word := BitVec 32

/-- `u64`: one lane of the 1600-bit state (00_scope.md R10). -/
abbrev Lane := BitVec 64

/-- `u12`: a byte offset within the block's register space (20_memory.md R63). -/
abbrev Offset := BitVec 12

/-- The 13-bit bus operation `write << 12 | addr` (30_encoding.md R109). -/
abbrev BusOp := BitVec 13

end Sys2Proof
end

