-- ==== Sys2Proof/Config.lean ====
section
/-! DEFINITION. What a build of the KSE fixes (00_scope.md R7, 10_state.md R45), and the values the spec leaves
unspecified (93_implementation_defined.md U1 to U4). None of them has a body: no proof can see what it is. -/

namespace Sys2Proof

/-- The legal values of ROUNDS_PER_CYCLE (00_scope.md R7). -/
inductive RoundsPerCycle where
  | k1 | k2 | k3 | k4 | k6 | k8 | k12 | k24
deriving DecidableEq, Repr, Inhabited

/-- The number of rounds per clock cycle a build performs (40_permutation.md R140). -/
def RoundsPerCycle.rounds : RoundsPerCycle → Nat
  | .k1 => 1
  | .k2 => 2
  | .k3 => 3
  | .k4 => 4
  | .k6 => 6
  | .k8 => 8
  | .k12 => 12
  | .k24 => 24

/-- U10: the build's ROUNDS_PER_CYCLE, read in HWCFG only (log 6). -/
opaque Config.roundsPerCycle : RoundsPerCycle

/-- U11: the system address of offset 0 (log 6). -/
opaque Config.kseBase : Nat

/-- U1: STATUS.ABUF_COUNT as the n-th unspecified read returns it (log 5). -/
opaque Config.freeAbufCount : Nat → Byte

/-- U2: a DOUT window word as the n-th unspecified read returns it (log 5). -/
opaque Config.freeDoutWord : Nat → Word

/-- U3: PERM_COUNT as the n-th unspecified read returns it (log 5). -/
opaque Config.freePermCount : Nat → Word

/-- U4: a STATE window word 0..49 as the n-th unspecified read returns it (log 5). -/
opaque Config.freeStateWord : Nat → Word

end Sys2Proof
end

