-- ==== Sys2Proof/Syntax.lean ====
section
/-! DEFINITION. The instructions of the KSE: one constructor per row of spec/opcode_table.json. -/

namespace Sys2Proof

/-- The five command words (30_encoding.md R101) and the twenty-two bus operations (R109).
`n` is LEN, the count of staged message bytes (R102); `w` is a window's word index (R70, R71); `d` is the 32-bit
write data of the access (20_memory.md R61). -/
inductive Instr where
  | nop
  | reset
  | absorb (n : BitVec 4)
  | finalize (n : BitVec 4)
  | permute
  | rdId
  | rdHwcfg
  | rdConfig
  | rdCmd
  | rdStatus
  | rdIrqEn
  | rdDinLo
  | rdDinHi
  | rdPermCount
  | rdState (w : BitVec 6)
  | rdDout (w : BitVec 6)
  | wrId (d : Word)
  | wrHwcfg (d : Word)
  | wrConfig (d : Word)
  | wrCmd (d : Word)
  | wrStatus (d : Word)
  | wrIrqEn (d : Word)
  | wrDinLo (d : Word)
  | wrDinHi (d : Word)
  | wrPermCount (d : Word)
  | wrState (w : BitVec 6) (d : Word)
  | wrDout (w : BitVec 6) (d : Word)
deriving DecidableEq, Repr

end Sys2Proof
end

