-- ==== Sys2Proof/WellFormed.lean ====
section
/-! DEFINITION. Which instruction terms have a legal encoding. -/

namespace Sys2Proof

/-- LEN is at most 8 in ABSORB and FINALIZE (30_encoding.md R101, R106); every other field is legal at all its
values. An access's write data is any 32-bit value (20_memory.md R61). -/
def WellFormed : Instr → Bool
  | .absorb n => decide (n.toNat ≤ 8)
  | .finalize n => decide (n.toNat ≤ 8)
  | .nop | .reset | .permute => true
  | .rdId | .rdHwcfg | .rdConfig | .rdCmd | .rdStatus | .rdIrqEn | .rdDinLo | .rdDinHi | .rdPermCount => true
  | .rdState _ | .rdDout _ => true
  | .wrId _ | .wrHwcfg _ | .wrConfig _ | .wrCmd _ | .wrStatus _ | .wrIrqEn _ | .wrDinLo _ | .wrDinHi _ => true
  | .wrPermCount _ | .wrState _ _ | .wrDout _ _ => true

end Sys2Proof
end

