-- ==== Sys2Proof/Decode.lean ====
section
/-! DEFINITION. The decoder of the KSE's two kinds of word (30_encoding.md, command words R100 to R108 and bus
operations R109), total and rejecting by name; then the encoder; then the opcode table's numbering. -/

namespace Sys2Proof

/-- What a host access brings to the decoder: a command word, or a bus operation with its write data. -/
inductive PortWord where
  | cmd (w : Word)
  | bus (op : BusOp) (d : Word)
deriving DecidableEq, Repr

/-- Why a word is no instruction: the illegal command words of 30_encoding.md R106, the bus errors of R109. -/
inductive DecodeError where
  /-- RSV, bits 31:8 of a command word, is not 0 (R103). -/
  | reservedBits
  /-- LEN is outside what the opcode allows (R106). -/
  | badLength
  /-- OPC is 0x5 .. 0xF (R101). -/
  | reservedOpcode
  /-- The offset's bits 1:0 are not 0 (20_memory.md R65). -/
  | misaligned
  /-- An aligned offset that the map does not list (20_memory.md R69). -/
  | unmapped
deriving DecidableEq, Repr

/-- OPC, bits 3:0 of a command word (R100). -/
def cmdOpc (d : Word) : BitVec 4 := d.extractLsb' 0 4

/-- LEN, bits 7:4 of a command word (R100). -/
def cmdLen (d : Word) : BitVec 4 := d.extractLsb' 4 4

/-- RSV, bits 31:8 of a command word (R100). -/
def cmdRsv (d : Word) : BitVec 24 := d.extractLsb' 8 24

/-- A command whose LEN must be 0 (R101). -/
def lenMustBeZero (n : BitVec 4) (i : Instr) : Except DecodeError Instr :=
  if n = 0 then .ok i else .error .badLength

/-- A command whose LEN is 0 .. 8 (R101). -/
def lenAtMostEight (n : BitVec 4) (i : Instr) : Except DecodeError Instr :=
  if n ≤ 8 then .ok i else .error .badLength

/-- The opcode map of command words (R101, R106). -/
def decodeCommand (d : Word) : Except DecodeError Instr :=
  if cmdRsv d ≠ 0 then .error .reservedBits
  else if cmdOpc d = 0x0 then lenMustBeZero (cmdLen d) .nop
  else if cmdOpc d = 0x1 then lenMustBeZero (cmdLen d) .reset
  else if cmdOpc d = 0x2 then lenAtMostEight (cmdLen d) (.absorb (cmdLen d))
  else if cmdOpc d = 0x3 then lenAtMostEight (cmdLen d) (.finalize (cmdLen d))
  else if cmdOpc d = 0x4 then lenMustBeZero (cmdLen d) .permute
  else .error .reservedOpcode

/-- `write`, bit 12 of a bus operation (R109). -/
def busWrites (op : BusOp) : Bool := op.getLsbD 12

/-- `addr`, bits 11:0 of a bus operation (R109). -/
def busAddr (op : BusOp) : Offset := op.extractLsb' 0 12

/-- The window word index, bits 7:2 of a bus operation on a window (R70, R71). -/
def busWindowWord (op : BusOp) : BitVec 6 := op.extractLsb' 2 6

/-- The bus-operation decode, in the order of R109: misaligned first, then the first row whose mask and match
fit, then no row. -/
def decodeBus (op : BusOp) (d : Word) : Except DecodeError Instr :=
  if (busAddr op).extractLsb' 0 2 ≠ 0 then .error .misaligned
  else if op &&& 0x1FFF = 0x0000 then .ok .rdId
  else if op &&& 0x1FFF = 0x0004 then .ok .rdHwcfg
  else if op &&& 0x1FFF = 0x0008 then .ok .rdConfig
  else if op &&& 0x1FFF = 0x000C then .ok .rdCmd
  else if op &&& 0x1FFF = 0x0010 then .ok .rdStatus
  else if op &&& 0x1FFF = 0x0014 then .ok .rdIrqEn
  else if op &&& 0x1FFF = 0x0018 then .ok .rdDinLo
  else if op &&& 0x1FFF = 0x001C then .ok .rdDinHi
  else if op &&& 0x1FFF = 0x0020 then .ok .rdPermCount
  else if op &&& 0x1F03 = 0x0100 then .ok (.rdState (busWindowWord op))
  else if op &&& 0x1F03 = 0x0200 then .ok (.rdDout (busWindowWord op))
  else if op &&& 0x1FFF = 0x1000 then .ok (.wrId d)
  else if op &&& 0x1FFF = 0x1004 then .ok (.wrHwcfg d)
  else if op &&& 0x1FFF = 0x1008 then .ok (.wrConfig d)
  else if op &&& 0x1FFF = 0x100C then .ok (.wrCmd d)
  else if op &&& 0x1FFF = 0x1010 then .ok (.wrStatus d)
  else if op &&& 0x1FFF = 0x1014 then .ok (.wrIrqEn d)
  else if op &&& 0x1FFF = 0x1018 then .ok (.wrDinLo d)
  else if op &&& 0x1FFF = 0x101C then .ok (.wrDinHi d)
  else if op &&& 0x1FFF = 0x1020 then .ok (.wrPermCount d)
  else if op &&& 0x1F03 = 0x1100 then .ok (.wrState (busWindowWord op) d)
  else if op &&& 0x1F03 = 0x1200 then .ok (.wrDout (busWindowWord op) d)
  else .error .unmapped

/-- The decoder, total on both kinds of word. -/
def decode : PortWord → Except DecodeError Instr
  | .cmd w => decodeCommand w
  | .bus op d => decodeBus op d

/-! ## The encoder -/

/-- A command word from its fields (R100): RSV = 0, LEN, OPC. -/
def commandWord (opc len : BitVec 4) : Word := (0 : BitVec 24) ++ len ++ opc

/-- A bus operation from its fields (R109). -/
def busOp (write : Bool) (addr : Offset) : BusOp := BitVec.ofBool write ++ addr

/-- The offset of word `w` of the window whose base is `base * 0x100` (20_memory.md R64, R70, R71). -/
def windowOffset (base : BitVec 4) (w : BitVec 6) : Offset := base ++ w ++ (0 : BitVec 2)

/-- The word of each instruction, from the tables of R101 and R109. A read has no write data: it is encoded with 0. -/
def encode : Instr → PortWord
  | .nop => .cmd (commandWord 0x0 0)
  | .reset => .cmd (commandWord 0x1 0)
  | .absorb n => .cmd (commandWord 0x2 n)
  | .finalize n => .cmd (commandWord 0x3 n)
  | .permute => .cmd (commandWord 0x4 0)
  | .rdId => .bus (busOp false 0x000) 0
  | .rdHwcfg => .bus (busOp false 0x004) 0
  | .rdConfig => .bus (busOp false 0x008) 0
  | .rdCmd => .bus (busOp false 0x00C) 0
  | .rdStatus => .bus (busOp false 0x010) 0
  | .rdIrqEn => .bus (busOp false 0x014) 0
  | .rdDinLo => .bus (busOp false 0x018) 0
  | .rdDinHi => .bus (busOp false 0x01C) 0
  | .rdPermCount => .bus (busOp false 0x020) 0
  | .rdState w => .bus (busOp false (windowOffset 1 w)) 0
  | .rdDout w => .bus (busOp false (windowOffset 2 w)) 0
  | .wrId d => .bus (busOp true 0x000) d
  | .wrHwcfg d => .bus (busOp true 0x004) d
  | .wrConfig d => .bus (busOp true 0x008) d
  | .wrCmd d => .bus (busOp true 0x00C) d
  | .wrStatus d => .bus (busOp true 0x010) d
  | .wrIrqEn d => .bus (busOp true 0x014) d
  | .wrDinLo d => .bus (busOp true 0x018) d
  | .wrDinHi d => .bus (busOp true 0x01C) d
  | .wrPermCount d => .bus (busOp true 0x020) d
  | .wrState w d => .bus (busOp true (windowOffset 1 w)) d
  | .wrDout w d => .bus (busOp true (windowOffset 2 w)) d

/-! ## The opcode table's numbering -/

/-- A word of spec/opcode_table.json as the port brings it (log 12): a row of 17 to 32 bits is a command word; a row
of at most 16 bits is a 13-bit bus operation, of write data 0; a longer one carries the write data above bit 15. -/
def tableWord (nbits w : Nat) : Option PortWord :=
  if 16 < nbits ∧ nbits ≤ 32 then
    if w < 2 ^ 32 then some (.cmd (BitVec.ofNat 32 w)) else none
  else if w % 2 ^ 16 < 2 ^ 13 then some (.bus (BitVec.ofNat 13 w) (BitVec.ofNat 32 (w / 2 ^ 16)))
  else none

/-- The instruction the decoder reads from a table word; none where it refuses. -/
def decodeTableWord (nbits w : Nat) : Option Instr :=
  match tableWord nbits w with
  | some p => (decode p).toOption
  | none => none

end Sys2Proof
end

