-- ==== Sys2Proof/Machine/State.lean ====
section
/-! DEFINITION. The state of the machine as plain data: the architectural record of 10_state.md R20 (`Kse`), the
signals of the host port (20_memory.md R62), and the two agents of 00_scope.md R14. -/

namespace Sys2Proof.Machine

/-- The 25 lanes S[0..24]; `A[x,y] = S[x + 5y]` (00_scope.md R11). -/
abbrev Lanes := Vector Lane 25

/-- The error codes 0 .. 5 of 60_exceptions.md R220. Codes 6 .. 255 are never produced (93 X4; log 9). -/
inductive ErrCode where
  | none
  | illegalCmd
  | busyErr
  | sequence
  | cfgLocked
  | cfgInvalid
deriving DecidableEq, Repr

/-- The opcodes PEND may hold (10_state.md R37). -/
inductive PendOp where
  | reset
  | absorb
  | finalize
  | permute
deriving DecidableEq, Repr

/-- An accepted command: its opcode and the staged bytes latched at acceptance (R37). -/
structure Pending where
  op : PendOp
  bytes : List Byte
deriving DecidableEq, Repr

/-- The architectural state of one KSE instance: the record of 10_state.md R20. -/
structure Kse where
  /-- S[0..24] (R28). -/
  lanes : Lanes
  /-- ABUF (R27). -/
  abuf : List Byte
  /-- CONFIG.RATE_BYTES (R23, R24). -/
  rateBytes : Byte
  /-- CONFIG.SUFFIX (R23, R25). -/
  suffix : Byte
  /-- CONFIG.OUT_BYTES (R23, R26). -/
  outBytes : BitVec 9
  /-- STATUS.BUSY (R30). -/
  busy : Bool
  /-- STATUS.DONE (R31). -/
  done : Bool
  /-- STATUS.LOCKED (R32). -/
  locked : Bool
  /-- STATUS.ERR (R34). -/
  err : ErrCode
  /-- IRQ_EN.DONE_IE (R35). -/
  doneIe : Bool
  /-- IRQ_EN.ERR_IE (R35). -/
  errIe : Bool
  /-- DIN_LO (R36). -/
  dinLo : Word
  /-- DIN_HI (R36). -/
  dinHi : Word
  /-- PEND (R37). -/
  pend : Option Pending
  /-- DOUT[0..255] (R41). -/
  dout : Vector Byte 256
  /-- PERM_COUNT (R42). -/
  permCount : Word
deriving DecidableEq, Repr

/-- Every component at its hardware-reset value (10_state.md R20, 70_reset_and_hazards.md R260). -/
def Kse.reset : Kse where
  lanes := Vector.replicate 25 0
  abuf := []
  rateBytes := 72
  suffix := 0x06
  outBytes := 64
  busy := false
  done := false
  locked := false
  err := .none
  doneIe := false
  errIe := false
  dinLo := 0
  dinHi := 0
  pend := none
  dout := Vector.replicate 256 0
  permCount := 0

/-- The response of an access (00_scope.md R11). -/
inductive Resp where
  | okay
  | error
deriving DecidableEq, Repr

/-- What the port answered to the last access: `BusRead(off) -> (data, resp)`, `BusWrite(off, d) -> resp`
(20_memory.md R60, R61; rdata and err of R62; log 8). -/
inductive Response where
  | none
  | read (data : Word) (resp : Resp)
  | write (resp : Resp)
deriving DecidableEq, Repr

/-- The statements of a host program (30_encoding.md R110). A label and a temporary `%t` are numbers. -/
inductive HostStmt where
  /-- `WR REG+k, imm32`: BusWrite of an offset. -/
  | wr (off : Offset) (d : Word)
  /-- `RD REG+k -> %t`: BusRead of an offset. -/
  | rd (off : Offset) (t : Nat)
  /-- `CMD m`: WR CMD of a command word. -/
  | cmd (w : Word)
  | label (l : Nat)
  | bnz (t : Nat) (mask : Word) (l : Nat)
  | bz (t : Nat) (mask : Word) (l : Nat)
  | jmp (l : Nat)
  /-- `%t <- %c[hi:lo]`, as the pseudo-instructions SIZE and BLOCKSIZE of R112 use it. -/
  | field (t c hi lo : Nat)
  | halt
deriving DecidableEq, Repr

/-- The host agent (00_scope.md R14): its program, where it stands in it, and its temporaries, in ascending order
with no entry of value 0 (`Temps.wf`, log 3). -/
structure HostAgent where
  prog : List HostStmt
  next : Nat
  temps : List (Nat × Word)
  halted : Bool
deriving DecidableEq, Repr

/-- Whose event comes next (00_scope.md R14, 60_exceptions.md R236): a host step, an engine step, or a change of the
input `rst_n` (20_memory.md R62). -/
inductive Turn where
  | host
  | engine
  | rstLow
  | rstHigh
deriving DecidableEq, Repr

structure State where
  /-- The KSE's architectural state (R20). -/
  kse : Kse
  /-- The input `rst_n` (R62, R260). -/
  rstN : Bool
  /-- The port's answer to the last access (R62). -/
  response : Response
  /-- The host agent (R14, R110). -/
  host : HostAgent
  /-- The order of the coming events; used up, the engine completes what is pending and then the host moves (log 1). -/
  turns : List Turn
  /-- The MODEL'S own field: how many unspecified values have been drawn (log 5). -/
  draws : Nat
deriving DecidableEq, Repr

/-- Right after hardware reset is released (70_reset_and_hazards.md R260, R261): idle, unlocked, accepting accesses,
and a host that has no program yet (log 2). -/
def State.reset : State where
  kse := Kse.reset
  rstN := true
  response := .none
  host := { prog := [], next := 0, temps := [], halted := false }
  turns := []
  draws := 0

/-- Why the machine stops. The KSE itself never does (60_exceptions.md R237). -/
inductive Fault where
  /-- Raised by a host statement BNZ, BZ or JMP whose label the host program does not have: R110 gives it no
  effect. Safe (log 4). -/
  | unboundLabel (l : Nat)
deriving DecidableEq, Repr

/-- Why a step has no meaning. -/
inductive Refusal where
  /-- Raised by exec's arm of an instruction that has no meaning yet. Safe. -/
  | notModelled (mnemonic : String)
  /-- Raised by a host step that presents a bus access while rst_n = 0: the model has no such step
  (70_reset_and_hazards.md R276, 93 U5). Safe (log 7). -/
  | accessDuringReset
deriving DecidableEq, Repr

end Sys2Proof.Machine
end

