-- ==== Sys2Proof/Machine/Keccak.lean ====
section
/-! DEFINITION. The Keccak-f[1600] permutation (40_permutation.md). Its formulas and tables are the spec's own
adoption, marked there as general knowledge (93 K1 to K4, K8; log 21). -/

namespace Sys2Proof.Machine

/-- `ROT64(a, n)`: cyclic left rotation (00_scope.md R10). -/
def rot64 (a : Lane) (n : Nat) : Lane := a.rotateLeft n

/-- `A[x,y] = S[x + 5y]`, indices mod 5 (R11, R130). -/
def Lanes.at (A : Lanes) (x y : Nat) : Lane :=
  A[x % 5 + 5 * (y % 5)]'(by omega)

/-- The state whose lane (x, y) is `f x y`. -/
def Lanes.build (f : Nat → Nat → Lane) : Lanes :=
  #v[f 0 0, f 1 0, f 2 0, f 3 0, f 4 0,
     f 0 1, f 1 1, f 2 1, f 3 1, f 4 1,
     f 0 2, f 1 2, f 2 2, f 3 2, f 4 2,
     f 0 3, f 1 3, f 2 3, f 3 3, f 4 3,
     f 0 4, f 1 4, f 2 4, f 3 4, f 4 4]

/-- C[x] of θ: the parity of a column (R131). -/
def thetaC (A : Lanes) (x : Nat) : Lane :=
  A.at x 0 ^^^ A.at x 1 ^^^ A.at x 2 ^^^ A.at x 3 ^^^ A.at x 4

/-- D[x] of θ; `x + 4` is `(x - 1) mod 5` (R131). -/
def thetaD (A : Lanes) (x : Nat) : Lane :=
  thetaC A (x + 4) ^^^ rot64 (thetaC A (x + 1)) 1

/-- θ, column-parity diffusion (R131). -/
def theta (A : Lanes) : Lanes := Lanes.build fun x y => A.at x y ^^^ thetaD A x

/-- The row `x` of the table of ρ offsets: r[x,0] .. r[x,4] (R132). -/
def rhoRow : Nat → List Nat
  | 0 => [0, 36, 3, 41, 18]
  | 1 => [1, 44, 10, 45, 2]
  | 2 => [62, 6, 43, 15, 61]
  | 3 => [28, 55, 25, 21, 56]
  | 4 => [27, 20, 39, 8, 14]
  | _ => []

/-- r[x,y] (R132). -/
def rhoOffset (x y : Nat) : Nat := (rhoRow (x % 5)).getD (y % 5) 0

/-- ρ, per-lane rotation (R133). -/
def rho (A : Lanes) : Lanes := Lanes.build fun x y => rot64 (A.at x y) (rhoOffset x y)

/-- π, lane permutation (R134). -/
def piStep (A : Lanes) : Lanes := Lanes.build fun x y => A.at (x + 3 * y) x

/-- χ, nonlinear mixing per row (R135). -/
def chi (A : Lanes) : Lanes :=
  Lanes.build fun x y => A.at x y ^^^ (~~~ A.at (x + 1) y &&& A.at (x + 2) y)

/-- RC[ir], the table of R136; there is no round beyond 23. -/
def roundConstant : Nat → Lane
  | 0 => 0x0000000000000001
  | 1 => 0x0000000000008082
  | 2 => 0x800000000000808A
  | 3 => 0x8000000080008000
  | 4 => 0x000000000000808B
  | 5 => 0x0000000080000001
  | 6 => 0x8000000080008081
  | 7 => 0x8000000000008009
  | 8 => 0x000000000000008A
  | 9 => 0x0000000000000088
  | 10 => 0x0000000080008009
  | 11 => 0x000000008000000A
  | 12 => 0x000000008000808B
  | 13 => 0x800000000000008B
  | 14 => 0x8000000000008089
  | 15 => 0x8000000000008003
  | 16 => 0x8000000000008002
  | 17 => 0x8000000000000080
  | 18 => 0x000000000000800A
  | 19 => 0x800000008000000A
  | 20 => 0x8000000080008081
  | 21 => 0x8000000000008080
  | 22 => 0x0000000080000001
  | 23 => 0x8000000080008008
  | _ => 0

/-- ι, round-constant injection (R137). -/
def iota (ir : Nat) (A : Lanes) : Lanes := A.set 0 (A.at 0 0 ^^^ roundConstant ir)

/-- `Rnd(A, ir)`: θ, ρ, π, χ, ι in this order (R138). -/
def rnd (A : Lanes) (ir : Nat) : Lanes := iota ir (chi (piStep (rho (theta A))))

/-- `KeccakF(S)`: the 24 rounds in increasing order (R139). No result depends on ROUNDS_PER_CYCLE (R140). -/
def keccakF (S : Lanes) : Lanes := (List.range 24).foldl rnd S

/-! ## The generators of the two tables -/

/-- One repetition of the rc LFSR on R[0..7], R[0] first (R136). -/
def lfsrStep : List Bool → List Bool
  | [r0, r1, r2, r3, r4, r5, r6, r7] => [r7, r0, r1, r2, xor r3 r7, xor r4 r7, xor r5 r7, r6]
  | r => r

/-- The register R after `n` repetitions from R = 10000000 (R136). -/
def lfsr : Nat → List Bool
  | 0 => [true, false, false, false, false, false, false, false]
  | n + 1 => lfsrStep (lfsr n)

/-- `rc(t)` (R136). -/
def rcBit (t : Nat) : Bool := (lfsr (t % 255)).headD false

/-- RC[ir] as the generator gives it: bit 2^j - 1 is rc(j + 7ir), for j = 0 .. 6 (R136). -/
def generatedRoundConstant (ir : Nat) : Lane :=
  (List.range 7).foldl (fun c j => c ||| ((BitVec.ofBool (rcBit (j + 7 * ir))).setWidth 64 <<< (2 ^ j - 1))) 0

/-- The position (x, y) of the ρ walk at step `t` (R132). -/
def rhoWalk : Nat → Nat × Nat
  | 0 => (1, 0)
  | t + 1 => ((rhoWalk t).2, (2 * (rhoWalk t).1 + 3 * (rhoWalk t).2) % 5)

/-! ## The datapath variants -/

/-- Cycle `c` of a datapath of `k` rounds per cycle: rounds ck .. ck + k - 1 (R140). -/
def datapathCycle (k : Nat) (S : Lanes) (c : Nat) : Lanes :=
  (List.range k).foldl (fun T j => rnd T (c * k + j)) S

/-- A build of `k` rounds per cycle: 24/k cycles (R140). -/
def datapath (k : Nat) (S : Lanes) : Lanes := (List.range (24 / k)).foldl (datapathCycle k) S

end Sys2Proof.Machine
end

