-- ==== Sys2Proof/Machine/Ops.lean ====
section
/-! DEFINITION. The named operations over the KSE's state: one update per register group, the error record shared by
every refusal, the answers of the port, and the placement of the block in the system. -/

namespace Sys2Proof.Machine

/-! ## Register updates -/

def Kse.setErr (k : Kse) (e : ErrCode) : Kse := { k with err := e }

/-- CONFIG's three fields together (10_state.md R23). -/
def Kse.setConfig (k : Kse) (rate suf : Byte) (out : BitVec 9) : Kse :=
  { k with rateBytes := rate, suffix := suf, outBytes := out }

def Kse.setIrqEn (k : Kse) (doneIe errIe : Bool) : Kse := { k with doneIe := doneIe, errIe := errIe }

def Kse.setDinLo (k : Kse) (d : Word) : Kse := { k with dinLo := d }

def Kse.setDinHi (k : Kse) (d : Word) : Kse := { k with dinHi := d }

def Kse.setLocked (k : Kse) (b : Bool) : Kse := { k with locked := b }

def Kse.setDone (k : Kse) (b : Bool) : Kse := { k with done := b }

def Kse.setDout (k : Kse) (v : Vector Byte 256) : Kse := { k with dout := v }

/-- The sponge's working state: S, ABUF and PERM_COUNT (41_sponge.md R174). -/
def Kse.setSponge (k : Kse) (S : Lanes) (buf : List Byte) (count : Word) : Kse :=
  { k with lanes := S, abuf := buf, permCount := count }

/-- `PEND <- (op, bytes); BUSY <- 1` (30_encoding.md R105). -/
def Kse.setPend (k : Kse) (op : PendOp) (bytes : List Byte) : Kse :=
  { k with pend := some { op := op, bytes := bytes }, busy := true }

/-- `PEND <- none; BUSY <- 0` (10_state.md R37). -/
def Kse.clearPend (k : Kse) : Kse := { k with pend := none, busy := false }

/-! ## Recording an error, and acknowledging it -/

/-- `RecordErr(code)`: the KSE's one way to report a misuse, in the place of a trap (60_exceptions.md R221, R237). -/
def Kse.recordErr (k : Kse) (e : ErrCode) : Kse :=
  if k.err = .none then k.setErr e else k

/-- The host's acknowledgement of an error, in the place of a return (60_exceptions.md R238). -/
def Kse.clearErr (k : Kse) : Kse := k.setErr .none

/-! ## The port's answers -/

/-- A write access that ends with resp = OKAY and performs `f` on the KSE (20_memory.md R61). -/
def respondWrite (f : Kse → Kse) (s : State) : Host.Outcome State Fault Refusal :=
  .next { s with kse := f s.kse, response := .write .okay }

/-- A read access that ends with resp = OKAY and an exact value; it changes no state of the KSE (20_memory.md R79). -/
def respondRead (data : Word) (s : State) : Host.Outcome State Fault Refusal :=
  .next { s with response := .read data .okay }

/-- A read access that returns an unspecified value: the one drawn now, so that a later read may differ
(20_memory.md R72, R79; log 5). -/
def respondFree (data : Nat → Word) (s : State) : Host.Outcome State Fault Refusal :=
  .next { s with response := .read (data s.draws) .okay, draws := s.draws + 1 }

/-- `raise BusError`: resp = ERROR, read data 0, no state change (20_memory.md R65, R69; 60_exceptions.md R227). -/
def busError (write : Bool) (s : State) : State :=
  { s with response := if write then .write .error else .read 0 .error }

/-- `err`, the port's error output for the last access (20_memory.md R62). -/
def Response.isError : Response → Bool
  | .read _ .error | .write .error => true
  | .read _ .okay | .write .okay | .none => false

/-- What the step after an access does with the next state; a stop stays a stop. -/
def thenNext (o : Host.Outcome State Fault Refusal) (f : State → State) : Host.Outcome State Fault Refusal :=
  match o with
  | .next s => .next (f s)
  | .fault r => .fault r
  | .refused r => .refused r

/-! ## The block in the system -/

/-- The system address of an offset (20_memory.md R63). -/
def systemAddress (off : Offset) : Nat := Config.kseBase + off.toNat

/-- The offset the KSE sees for a system address in its 4 KiB window; none where the system does not route the
access to the port (20_memory.md R63). -/
def portOffset (addr : Nat) : Option Offset :=
  if Config.kseBase ≤ addr ∧ addr < Config.kseBase + 4096 then some (BitVec.ofNat 12 (addr - Config.kseBase)) else none

end Sys2Proof.Machine
end

