-- ==== Sys2Proof/Machine/Operands.lean ====
section
/-! DEFINITION. The operand forms: the staged bytes of DIN (30_encoding.md R102), and the bytes of the state and of
DOUT (40_permutation.md R130, 20_memory.md R71, R75). -/

namespace Sys2Proof.Machine

/-! ## Staged bytes -/

/-- DIN_HI:DIN_LO as one 64-bit value (R102). -/
def Kse.din (k : Kse) : BitVec 64 := k.dinHi ++ k.dinLo

/-- `DINbyte(i)`, 0 <= i <= 7 (R102, 10_state.md R36). -/
def Kse.dinByte (k : Kse) (i : Nat) : Byte := k.din.extractLsb' (8 * i) 8

/-- Staged bytes 0 .. n-1, the operand of ABSORB n and FINALIZE n (R102, 20_memory.md R83). -/
def Kse.stagedBytes (k : Kse) (n : Nat) : List Byte := (List.range n).map k.dinByte

/-! ## State bytes -/

/-- S[i]; there is no lane beyond 24 (log 13). -/
def laneAt (S : Lanes) (i : Nat) : Lane := if h : i < 25 then S[i] else 0

/-- `Sbyte(i)` (R130). -/
def stateByte (S : Lanes) (i : Nat) : Byte := (laneAt S (i / 8)).extractLsb' (8 * (i % 8)) 8

/-- `XorByte(i, b)` (00_scope.md R11); no effect beyond byte 199 (log 13). -/
def xorByte (S : Lanes) (i : Nat) (b : Byte) : Lanes :=
  if h : i / 8 < 25 then S.set (i / 8) (S[i / 8] ^^^ (b.setWidth 64 <<< (8 * (i % 8)))) else S

/-- The first `n` state bytes: Sbyte(0) .. Sbyte(n-1) (41_sponge.md R177). -/
def stateBytes (S : Lanes) (n : Nat) : List Byte := (List.range n).map (stateByte S)

/-! ## Window words -/

/-- StateWord(w) when nothing is pending (R70). -/
def stateWord (S : Lanes) (w : BitVec 6) : Word :=
  if 50 ≤ w.toNat then 0
  else if w.toNat % 2 = 0 then (laneAt S (w.toNat / 2)).extractLsb' 0 32
  else (laneAt S (w.toNat / 2)).extractLsb' 32 32

/-- DoutWord(w) when neither FINALIZE nor RESET is pending (R71). -/
def doutWord (v : Vector Byte 256) (w : BitVec 6) : Word :=
  v[4 * w.toNat + 3] ++ v[4 * w.toNat + 2] ++ v[4 * w.toNat + 1] ++ v[4 * w.toNat]

/-- The DOUT buffer that holds `out` and is 0 beyond it (41_sponge.md R177). -/
def doutOf (out : List Byte) : Vector Byte 256 :=
  ⟨((out ++ List.replicate 256 0).take 256).toArray, by
    rw [List.size_toArray, List.length_take, List.length_append, List.length_replicate]; omega⟩

end Sys2Proof.Machine
end

