-- ==== Sys2Proof/Machine/Flags.lean ====
section
/-! DEFINITION. The register words as a read returns them (10_state.md, 20_memory.md R60), and the interrupt output
(60_exceptions.md R230). -/

namespace Sys2Proof.Machine

/-- The code of STATUS.ERR (60_exceptions.md R220). -/
def ErrCode.code : ErrCode → Byte
  | .none => 0
  | .illegalCmd => 1
  | .busyErr => 2
  | .sequence => 3
  | .cfgLocked => 4
  | .cfgInvalid => 5

/-- ID (10_state.md R21). -/
def idWord : Word := 0x4B454343

/-- HWCFG of a build (10_state.md R22): OUT_BUF_BYTES = 256, MAX_RATE_BYTES = 200, ROUNDS_PER_CYCLE. -/
def hwcfgWord (k : RoundsPerCycle) : Word :=
  (256 : BitVec 16) ++ (200 : Byte) ++ BitVec.ofNat 8 k.rounds

/-- CONFIG (10_state.md R23). -/
def Kse.configWord (k : Kse) : Word := (0 : BitVec 7) ++ k.outBytes ++ k.suffix ++ k.rateBytes

/-- STATUS with a given ABUF_COUNT field (10_state.md R29). -/
def Kse.statusWord (k : Kse) (abufCount : Byte) : Word :=
  (0 : Byte) ++ k.err.code ++ abufCount ++ (0 : BitVec 5) ++
    BitVec.ofBool k.locked ++ BitVec.ofBool k.done ++ BitVec.ofBool k.busy

/-- STATUS.ABUF_COUNT while BUSY = 0 (10_state.md R33). -/
def Kse.abufCount (k : Kse) : Byte := BitVec.ofNat 8 k.abuf.length

/-- IRQ_EN (10_state.md R35). -/
def Kse.irqEnWord (k : Kse) : Word := (0 : BitVec 30) ++ BitVec.ofBool k.errIe ++ BitVec.ofBool k.doneIe

/-- `irq`, level-sensitive, active high, a function of the state (60_exceptions.md R230). -/
def Kse.irq (k : Kse) : Bool := (k.done && k.doneIe) || (k.err != .none && k.errIe)

/-- Whether a DOUT read is unspecified: FINALIZE or RESET is pending (10_state.md R41, 20_memory.md R71). -/
def Kse.doutUnspecified (k : Kse) : Bool :=
  k.busy &&
    match k.pend with
    | some { op := .finalize, .. } | some { op := .reset, .. } => true
    | some { op := .absorb, .. } | some { op := .permute, .. } | none => false

end Sys2Proof.Machine
end

