-- ==== Sys2Proof/Machine/Sponge.lean ====
section
/-! DEFINITION. The sponge over the KSE's state (41_sponge.md section 1) and the completions of the four commands
that occupy the engine. -/

namespace Sys2Proof.Machine

/-- One invocation of KeccakF, counted (60_exceptions.md R240). -/
def Kse.permuteOnce (k : Kse) : Kse := k.setSponge (keccakF k.lanes) k.abuf (k.permCount + 1)

/-- XorByte of each byte of a block, from state byte `i` on (R175). -/
def xorFrom : Nat → Lanes → List Byte → Lanes
  | _, S, [] => S
  | i, S, b :: bs => xorFrom (i + 1) (xorByte S i b) bs

/-- AbsorbBlock(B) (R175). -/
def Kse.absorbBlock (k : Kse) (B : List Byte) : Kse :=
  (k.setSponge (xorFrom 0 k.lanes B) k.abuf k.permCount).permuteOnce

/-- One byte of AbsorbBytes: append, and flush a block the moment ABUF is full (R173). -/
def Kse.absorbByte (k : Kse) (b : Byte) : Kse :=
  if k.abuf.length + 1 = k.rateBytes.toNat then
    let k' := k.absorbBlock (k.abuf ++ [b])
    k'.setSponge k'.lanes [] k'.permCount
  else k.setSponge k.lanes (k.abuf ++ [b]) k.permCount

/-- AbsorbBytes(bs) (R173). -/
def Kse.absorbBytes (k : Kse) (bs : List Byte) : Kse := bs.foldl Kse.absorbByte k

/-- Pad(ABUF), the last block (R176). -/
def pad (buf : List Byte) (rate : Nat) (suf : Byte) : List Byte :=
  ((buf ++ List.replicate (rate - buf.length) 0).modify buf.length (· ^^^ suf)).modify (rate - 1) (· ^^^ 0x80)

/-- The squeeze loop of FINALIZE: the bytes taken so far, and the state they come from. Each turn takes at least one
byte, so OUT_BYTES turns are enough (R177; log 13). -/
def squeezeLoop : Nat → List Byte → Kse → List Byte × Kse
  | 0, out, k => (out, k)
  | fuel + 1, out, k =>
    let out' := out ++ stateBytes k.lanes (min k.rateBytes.toNat (k.outBytes.toNat - out.length))
    if out'.length = k.outBytes.toNat then (out', k) else squeezeLoop fuel out' k.permuteOnce

/-- The squeeze of OUT_BYTES bytes; the cursor starts at state byte 0 (R177, 10_state.md R40). -/
def Kse.squeeze (k : Kse) : List Byte × Kse := squeezeLoop k.outBytes.toNat [] k

/-! ## Completions -/

/-- The completion of RESET (R184). -/
def Kse.completeReset (k : Kse) : Kse :=
  ((((k.setSponge (Vector.replicate 25 0) [] 0).setDone false).setLocked false).setDout
    (Vector.replicate 256 0)).clearPend

/-- The completion of ABSORB (R172). -/
def Kse.completeAbsorb (k : Kse) (bytes : List Byte) : Kse := (k.absorbBytes bytes).clearPend

/-- FINALIZE up to its padded block: the extra bytes, then AbsorbBlock(Pad(ABUF)), ABUF emptied (R177). -/
def Kse.absorbPadded (k : Kse) (bytes : List Byte) : Kse :=
  let k₁ := k.absorbBytes bytes
  let k₂ := k₁.absorbBlock (pad k₁.abuf k₁.rateBytes.toNat k₁.suffix)
  k₂.setSponge k₂.lanes [] k₂.permCount

/-- The completion of FINALIZE (R177). -/
def Kse.completeFinalize (k : Kse) (bytes : List Byte) : Kse :=
  let r := (k.absorbPadded bytes).squeeze
  ((r.2.setDout (doutOf r.1)).setDone true).clearPend

/-- The completion of PERMUTE (40_permutation.md R141). -/
def Kse.completePermute (k : Kse) : Kse := k.permuteOnce.clearPend

/-- The completion of an accepted command. -/
def Kse.complete (k : Kse) (p : Pending) : Kse :=
  match p.op with
  | .reset => k.completeReset
  | .absorb => k.completeAbsorb p.bytes
  | .finalize => k.completeFinalize p.bytes
  | .permute => k.completePermute

/-- The engine's only step (10_state.md R37). -/
def Kse.engine (k : Kse) : Kse :=
  match k.pend with
  | some p => k.complete p
  | none => k

end Sys2Proof.Machine
end

