-- ==== Sys2Proof/Machine/Reads.lean ====
section
/-! DEFINITION. The meanings of the bus reads (20_memory.md R60, R70, R71, R72). A read changes no state of the KSE
(R79). While BUSY = 1 four of them return unspecified values (70_reset_and_hazards.md R271; log 5). -/

namespace Sys2Proof.Machine

/-- RD_ID (10_state.md R21). -/
def execRdId (s : State) : Host.Outcome State Fault Refusal := respondRead idWord s

/-- RD_HWCFG (10_state.md R22). -/
def execRdHwcfg (s : State) : Host.Outcome State Fault Refusal := respondRead (hwcfgWord Config.roundsPerCycle) s

/-- RD_CONFIG (10_state.md R23). -/
def execRdConfig (s : State) : Host.Outcome State Fault Refusal := respondRead s.kse.configWord s

/-- RD_CMD: CMD is write-only and reads 0 (10_state.md R43). -/
def execRdCmd (s : State) : Host.Outcome State Fault Refusal := respondRead 0 s

/-- RD_STATUS (10_state.md R29); ABUF_COUNT is unspecified while BUSY = 1, every other bit exact (R33, U1). -/
def execRdStatus (s : State) : Host.Outcome State Fault Refusal :=
  if s.kse.busy then respondFree (fun n => s.kse.statusWord (Config.freeAbufCount n)) s
  else respondRead (s.kse.statusWord s.kse.abufCount) s

/-- RD_IRQ_EN (10_state.md R35). -/
def execRdIrqEn (s : State) : Host.Outcome State Fault Refusal := respondRead s.kse.irqEnWord s

/-- RD_DIN_LO (10_state.md R36). -/
def execRdDinLo (s : State) : Host.Outcome State Fault Refusal := respondRead s.kse.dinLo s

/-- RD_DIN_HI (10_state.md R36). -/
def execRdDinHi (s : State) : Host.Outcome State Fault Refusal := respondRead s.kse.dinHi s

/-- RD_PERM_COUNT (10_state.md R42, U3). -/
def execRdPermCount (s : State) : Host.Outcome State Fault Refusal :=
  if s.kse.busy then respondFree Config.freePermCount s else respondRead s.kse.permCount s

/-- RD_STATE w: words 50 .. 63 read 0 at all times (20_memory.md R70, U4). -/
def execRdState (w : BitVec 6) (s : State) : Host.Outcome State Fault Refusal :=
  if s.kse.busy ∧ w.toNat < 50 then respondFree Config.freeStateWord s
  else respondRead (stateWord s.kse.lanes w) s

/-- RD_DOUT w (20_memory.md R71, U2). -/
def execRdDout (w : BitVec 6) (s : State) : Host.Outcome State Fault Refusal :=
  if s.kse.doutUnspecified then respondFree Config.freeDoutWord s
  else respondRead (doutWord s.kse.dout w) s

end Sys2Proof.Machine
end

