-- ==== Sys2Proof/Machine/Commands.lean ====
section
/-! DEFINITION. The command words: acceptance (30_encoding.md R104, R105), and the meaning of NOP, RESET, ABSORB,
FINALIZE and PERMUTE. A meaning is the host's step, the acceptance; the completion is the engine's step
(00_scope.md R12, R14), `Kse.complete`. -/

namespace Sys2Proof.Machine

/-! ## Acceptance -/

/-- Accept(NOP) (R105, 41_sponge.md R170). -/
def Kse.acceptNop (k : Kse) : Kse := k

/-- Accept(RESET) (R105, 41_sponge.md R184). -/
def Kse.acceptReset (k : Kse) : Kse := k.clearErr.setPend .reset []

/-- Accept(ABSORB, n) (R105, 41_sponge.md R172). -/
def Kse.acceptAbsorb (k : Kse) (n : Nat) : Kse := (k.setLocked true).setPend .absorb (k.stagedBytes n)

/-- Accept(FINALIZE, n) (R105, 41_sponge.md R177). -/
def Kse.acceptFinalize (k : Kse) (n : Nat) : Kse := (k.setLocked true).setPend .finalize (k.stagedBytes n)

/-- Accept(PERMUTE) (R105, 40_permutation.md R141). -/
def Kse.acceptPermute (k : Kse) : Kse := (k.setLocked true).setPend .permute []

/-- The checks of one command in the order of 60_exceptions.md R235: BUSY_ERR, ILLEGAL_CMD, SEQUENCE; then its
acceptance. A refused command has no effect but RecordErr (R104, R221). -/
def Kse.submit (k : Kse) (illegal sequenced : Bool) (accept : Kse → Kse) : Kse :=
  if k.busy then k.recordErr .busyErr
  else if illegal then k.recordErr .illegalCmd
  else if sequenced && k.done then k.recordErr .sequence
  else accept k

/-- CommandWrite(d) (20_memory.md R74), the checks and acceptance of R104 and R105 on the word's fields. -/
def Kse.commandWrite (k : Kse) (d : Word) : Kse :=
  if k.busy then k.recordErr .busyErr
  else if cmdRsv d ≠ 0 then k.recordErr .illegalCmd
  else if (cmdOpc d = 0x0 ∨ cmdOpc d = 0x1 ∨ cmdOpc d = 0x4) ∧ cmdLen d ≠ 0 then k.recordErr .illegalCmd
  else if (cmdOpc d = 0x2 ∨ cmdOpc d = 0x3) ∧ 8 < cmdLen d then k.recordErr .illegalCmd
  else if 0x5 ≤ cmdOpc d then k.recordErr .illegalCmd
  else if (cmdOpc d = 0x2 ∨ cmdOpc d = 0x3) ∧ k.done then k.recordErr .sequence
  else if cmdOpc d = 0x0 then k.acceptNop
  else if cmdOpc d = 0x1 then k.acceptReset
  else if cmdOpc d = 0x2 then k.acceptAbsorb (cmdLen d).toNat
  else if cmdOpc d = 0x3 then k.acceptFinalize (cmdLen d).toNat
  else k.acceptPermute

/-! ## The meanings -/

/-- NOP (41_sponge.md R170). -/
def execNop (s : State) : Host.Outcome State Fault Refusal :=
  respondWrite (fun k => k.submit false false Kse.acceptNop) s

/-- RESET (41_sponge.md R184). -/
def execReset (s : State) : Host.Outcome State Fault Refusal :=
  respondWrite (fun k => k.submit false false Kse.acceptReset) s

/-- ABSORB n (41_sponge.md R172); LEN above 8 is illegal (R106). -/
def execAbsorb (n : BitVec 4) (s : State) : Host.Outcome State Fault Refusal :=
  respondWrite (fun k => k.submit (decide (8 < n.toNat)) true (·.acceptAbsorb n.toNat)) s

/-- FINALIZE n (41_sponge.md R177); LEN above 8 is illegal (R106). -/
def execFinalize (n : BitVec 4) (s : State) : Host.Outcome State Fault Refusal :=
  respondWrite (fun k => k.submit (decide (8 < n.toNat)) true (·.acceptFinalize n.toNat)) s

/-- PERMUTE (40_permutation.md R141). -/
def execPermute (s : State) : Host.Outcome State Fault Refusal :=
  respondWrite (fun k => k.submit false false Kse.acceptPermute) s

end Sys2Proof.Machine
end

