-- ==== Sys2Proof/Machine/Writes.lean ====
section
/-! DEFINITION. The meanings of the bus writes (20_memory.md R61, R66, R67, R68, R73, R74). -/

namespace Sys2Proof.Machine

/-! ## Effects on the KSE -/

/-- A write to a read-only offset is ignored (R66). -/
def Kse.ignoreWrite (k : Kse) : Kse := k

/-- Whether the three fields of a CONFIG word are within their legal ranges (R67). -/
def configLegal (rate suf : Byte) (out : BitVec 9) : Bool :=
  decide ((1 ≤ rate.toNat ∧ rate.toNat ≤ 200) ∧ (0x01 ≤ suf.toNat ∧ suf.toNat ≤ 0x7F) ∧
    (1 ≤ out.toNat ∧ out.toNat ≤ 256))

/-- ConfigWrite(d): the whole register or nothing (R67); bits 31:25 are ignored. -/
def Kse.configWrite (k : Kse) (d : Word) : Kse :=
  if k.busy then k.recordErr .busyErr
  else if k.locked then k.recordErr .cfgLocked
  else if configLegal (d.extractLsb' 0 8) (d.extractLsb' 8 8) (d.extractLsb' 16 9) then
    k.setConfig (d.extractLsb' 0 8) (d.extractLsb' 8 8) (d.extractLsb' 16 9)
  else k.recordErr .cfgInvalid

/-- StatusWrite(d): bit 31 clears ERR; every other bit is ignored (R68). -/
def Kse.statusWrite (k : Kse) (d : Word) : Kse := if d.getLsbD 31 then k.clearErr else k

/-! ## The meanings -/

/-- WR_ID (R66). -/
def execWrId (_d : Word) (s : State) : Host.Outcome State Fault Refusal := respondWrite Kse.ignoreWrite s

/-- WR_HWCFG (R66). -/
def execWrHwcfg (_d : Word) (s : State) : Host.Outcome State Fault Refusal := respondWrite Kse.ignoreWrite s

/-- WR_CONFIG (R67). -/
def execWrConfig (d : Word) (s : State) : Host.Outcome State Fault Refusal := respondWrite (·.configWrite d) s

/-- WR_CMD: the data word is a command word, legal or not (R74). -/
def execWrCmd (d : Word) (s : State) : Host.Outcome State Fault Refusal := respondWrite (·.commandWrite d) s

/-- WR_STATUS (R68). -/
def execWrStatus (d : Word) (s : State) : Host.Outcome State Fault Refusal := respondWrite (·.statusWrite d) s

/-- WR_IRQ_EN: DONE_IE is bit 0, ERR_IE bit 1 (R73). -/
def execWrIrqEn (d : Word) (s : State) : Host.Outcome State Fault Refusal :=
  respondWrite (·.setIrqEn (d.getLsbD 0) (d.getLsbD 1)) s

/-- WR_DIN_LO (R73). -/
def execWrDinLo (d : Word) (s : State) : Host.Outcome State Fault Refusal := respondWrite (·.setDinLo d) s

/-- WR_DIN_HI (R73). -/
def execWrDinHi (d : Word) (s : State) : Host.Outcome State Fault Refusal := respondWrite (·.setDinHi d) s

/-- WR_PERM_COUNT (R66). -/
def execWrPermCount (_d : Word) (s : State) : Host.Outcome State Fault Refusal := respondWrite Kse.ignoreWrite s

/-- WR_STATE w (R66). -/
def execWrState (_w : BitVec 6) (_d : Word) (s : State) : Host.Outcome State Fault Refusal :=
  respondWrite Kse.ignoreWrite s

/-- WR_DOUT w (R66). -/
def execWrDout (_w : BitVec 6) (_d : Word) (s : State) : Host.Outcome State Fault Refusal :=
  respondWrite Kse.ignoreWrite s

end Sys2Proof.Machine
end

