-- ==== Sys2Proof/Machine/Dispatch.lean ====
section
/-! DEFINITION. One arm per constructor of Instr, one direct call of its meaning. -/

namespace Sys2Proof.Machine

def exec (i : Instr) (s : State) : Host.Outcome State Fault Refusal :=
  match i with
  | .nop => Sys2Proof.Machine.execNop s
  | .reset => Sys2Proof.Machine.execReset s
  | .absorb n => Sys2Proof.Machine.execAbsorb n s
  | .finalize n => Sys2Proof.Machine.execFinalize n s
  | .permute => Sys2Proof.Machine.execPermute s
  | .rdId => Sys2Proof.Machine.execRdId s
  | .rdHwcfg => Sys2Proof.Machine.execRdHwcfg s
  | .rdConfig => Sys2Proof.Machine.execRdConfig s
  | .rdCmd => Sys2Proof.Machine.execRdCmd s
  | .rdStatus => Sys2Proof.Machine.execRdStatus s
  | .rdIrqEn => Sys2Proof.Machine.execRdIrqEn s
  | .rdDinLo => Sys2Proof.Machine.execRdDinLo s
  | .rdDinHi => Sys2Proof.Machine.execRdDinHi s
  | .rdPermCount => Sys2Proof.Machine.execRdPermCount s
  | .rdState w => Sys2Proof.Machine.execRdState w s
  | .rdDout w => Sys2Proof.Machine.execRdDout w s
  | .wrId d => Sys2Proof.Machine.execWrId d s
  | .wrHwcfg d => Sys2Proof.Machine.execWrHwcfg d s
  | .wrConfig d => Sys2Proof.Machine.execWrConfig d s
  | .wrCmd d => Sys2Proof.Machine.execWrCmd d s
  | .wrStatus d => Sys2Proof.Machine.execWrStatus d s
  | .wrIrqEn d => Sys2Proof.Machine.execWrIrqEn d s
  | .wrDinLo d => Sys2Proof.Machine.execWrDinLo d s
  | .wrDinHi d => Sys2Proof.Machine.execWrDinHi d s
  | .wrPermCount d => Sys2Proof.Machine.execWrPermCount d s
  | .wrState w d => Sys2Proof.Machine.execWrState w d s
  | .wrDout w d => Sys2Proof.Machine.execWrDout w d s

end Sys2Proof.Machine
end

