-- ==== Sys2Proof/Machine/Engine.lean ====
section
/-! DEFINITION. The events that are no host step: the engine's completion (10_state.md R37) and the input `rst_n`
(70_reset_and_hazards.md R260). -/

namespace Sys2Proof.Machine

/-- The engine agent's step: the pending command completes; with none pending, nothing happens (R37). -/
def engineStep (s : State) : State := { s with kse := s.kse.engine }

/-- `rst_n` falls: every component takes its hardware-reset value, a pending command is abandoned (R260). The host
agent is not part of the KSE and is left alone. -/
def assertReset (s : State) : State := { s with kse := Kse.reset, rstN := false, response := .none }

/-- `rst_n` rises: the components are at their hardware-reset values and accesses are accepted (R260, R261). With
`rst_n` already 1 there is no edge and nothing happens. -/
def releaseReset (s : State) : State :=
  if s.rstN then s else { s with kse := Kse.reset, rstN := true, response := .none }

end Sys2Proof.Machine
end

