-- ==== Sys2Proof/Machine/HostAgent.lean ====
section
/-! DEFINITION. The host agent: its temporaries, its statements without a bus access, and the pseudo-instructions
(30_encoding.md R110, R112). It is the host that the notation describes, not the KSE (log 2). -/

namespace Sys2Proof.Machine

/-! ## Temporaries -/

/-- The value of `%t`; an unwritten one reads 0 (log 3). -/
def Temps.get : List (Nat × Word) → Nat → Word
  | [], _ => 0
  | (k, v) :: rest, t => if k = t then v else Temps.get rest t

/-- `%t <- v` in the canonical form: ascending, a value 0 is not listed. -/
def Temps.set : List (Nat × Word) → Nat → Word → List (Nat × Word)
  | [], t, v => if v = 0 then [] else [(t, v)]
  | (k, u) :: rest, t, v =>
    if t < k then (if v = 0 then (k, u) :: rest else (t, v) :: (k, u) :: rest)
    else if t = k then (if v = 0 then rest else (t, v) :: rest)
    else (k, u) :: Temps.set rest t v

/-- The canonical form of a list of temporaries. -/
def Temps.wf : List (Nat × Word) → Bool
  | [] => true
  | [(_, v)] => v != 0
  | (k, v) :: (k', v') :: rest => decide (k < k') && v != 0 && Temps.wf ((k', v') :: rest)

def HostAgent.setTemp (h : HostAgent) (t : Nat) (v : Word) : HostAgent := { h with temps := Temps.set h.temps t v }

def HostAgent.temp (h : HostAgent) (t : Nat) : Word := Temps.get h.temps t

/-! ## Statements -/

/-- The statement the host executes next; none when it has halted or stands past its program's end (log 2). -/
def HostAgent.current (h : HostAgent) : Option HostStmt := if h.halted then none else h.prog[h.next]?

/-- Host statements execute in order, except where a branch is taken (R110). -/
def HostAgent.advance (h : HostAgent) : HostAgent := { h with next := h.next + 1 }

/-- `busOp` of the access a statement performs, or its command word; none for a statement without an access (R110). -/
def HostStmt.portWord : HostStmt → Option PortWord
  | .wr off d => some (.bus (busOp true off) d)
  | .rd off _ => some (.bus (busOp false off) 0)
  | .cmd w => some (.cmd w)
  | .label _ | .bnz _ _ _ | .bz _ _ _ | .jmp _ | .field _ _ _ _ | .halt => none

/-- The temporary that receives the data of the statement's read (R110). -/
def HostStmt.dest : HostStmt → Option Nat
  | .rd _ t => some t
  | .wr _ _ | .cmd _ | .label _ | .bnz _ _ _ | .bz _ _ _ | .jmp _ | .field _ _ _ _ | .halt => none

/-- The number of the statement `label:`; the first where there are two (log 4). -/
def HostAgent.target (h : HostAgent) (l : Nat) : Option Nat := h.prog.findIdx? (· == .label l)

/-- "continue at label" (R110). -/
def HostAgent.branch (h : HostAgent) (l : Nat) : Except Fault HostAgent :=
  match h.target l with
  | some n => .ok { h with next := n }
  | none => .error (.unboundLabel l)

/-- `v[hi:lo]` zero-extended (00_scope.md R9). -/
def wordField (v : Word) (hi lo : Nat) : Word := (v.extractLsb' lo (hi + 1 - lo)).setWidth 32

/-- The host's step for a statement without a bus access (R110, R112; that it is a step, log 22); a WR, RD or CMD is an access, and no step of
this kind. -/
def HostAgent.runLocal (h : HostAgent) : HostStmt → Except Fault HostAgent
  | .wr _ _ | .rd _ _ | .cmd _ => .ok h
  | .label _ => .ok h.advance
  | .bnz t mask l => if h.temp t &&& mask ≠ 0 then h.branch l else .ok h.advance
  | .bz t mask l => if h.temp t &&& mask = 0 then h.branch l else .ok h.advance
  | .jmp l => h.branch l
  | .field t c hi lo => .ok (h.advance.setTemp t (wordField (h.temp c) hi lo))
  | .halt => .ok { h with halted := true }

/-- The data of a read goes to its temporary, also the 0 of a bus error (R110, R11; log 19). -/
def latch (dest : Option Nat) (s : State) : State :=
  match dest, s.response with
  | some t, .read data _ => { s with host := s.host.setTemp t data }
  | some _, .none => s
  | some _, .write _ => s
  | none, _ => s

/-! ## Offsets and pseudo-instructions -/

/-- The offsets of 20_memory.md R64. -/
def offCONFIG : Offset := 0x008
def offCMD : Offset := 0x00C
def offSTATUS : Offset := 0x010
def offDIN_LO : Offset := 0x018
def offDIN_HI : Offset := 0x01C
def offDOUT : Offset := 0x200

/-- `WAIT` with the fresh label `l` and the temporary `%w` (R112). -/
def waitStmts (l w : Nat) : List HostStmt := [.label l, .rd offSTATUS w, .bnz w 0x1 l]

/-- `CMDW m` (R112). -/
def cmdwStmts (m : Word) (l w : Nat) : List HostStmt := .cmd m :: waitStmts l w

/-- Four bytes as a little-endian word; a missing byte is 0 (R112). -/
def wordOfBytes (bs : List Byte) : Word := bs.getD 3 0 ++ bs.getD 2 0 ++ bs.getD 1 0 ++ bs.getD 0 0

/-- `STAGE b0 .. b(n-1)`, n <= 8 (R112). -/
def stageStmts (bs : List Byte) : List HostStmt :=
  [.wr offDIN_LO (wordOfBytes bs), .wr offDIN_HI (wordOfBytes (bs.drop 4))]

/-- `enc(ABSORB n)` (R111). -/
def absorbWord (n : Nat) : Word := commandWord 0x2 (BitVec.ofNat 4 n)

/-- `enc(FINALIZE n)` (R111). -/
def finalizeWord (n : Nat) : Word := commandWord 0x3 (BitVec.ofNat 4 n)

/-- The consecutive chunks of 8 bytes, the last possibly shorter (R112); `fuel` is at least the length. -/
def chunksOf8 : Nat → List Byte → List (List Byte)
  | 0, _ => []
  | _, [] => []
  | fuel + 1, b :: bs => ((b :: bs).take 8) :: chunksOf8 fuel ((b :: bs).drop 8)

/-- `WRITE m`: STAGE and CMDW ABSORB of each chunk; chunk i waits at the fresh label l + i (R112). -/
def writeStmts (m : List Byte) (l w : Nat) : List HostStmt :=
  ((chunksOf8 m.length m).zipIdx l).flatMap fun c => stageStmts c.1 ++ cmdwStmts (absorbWord c.1.length) c.2 w

/-- How many labels `WRITE m` uses. -/
def writeLabels (m : List Byte) : Nat := (chunksOf8 m.length m).length

/-- `SUM e`, len(e) <= 8; DOUT word k goes to `%(d + k)`; `out` is OUT_BYTES (R112). -/
def sumStmts (e : List Byte) (out l w d : Nat) : List HostStmt :=
  stageStmts e ++ cmdwStmts (finalizeWord e.length) l w ++
    (List.range ((out + 3) / 4)).map fun k => .rd (offDOUT + BitVec.ofNat 12 (4 * k)) (d + k)

/-- `SUMX e`: WRITE of all but the last len(e) mod 8 bytes, then SUM of those (R112). -/
def sumxStmts (e : List Byte) (out l w d : Nat) : List HostStmt :=
  let e' := e.take (e.length - e.length % 8)
  writeStmts e' l w ++ sumStmts (e.drop (e.length - e.length % 8)) out (l + writeLabels e') w d

/-- `RESETW` (R112). -/
def resetwStmts (l w : Nat) : List HostStmt := cmdwStmts (commandWord 0x1 0) l w

/-- `SIZE -> %t` (R112, 41_sponge.md R182). -/
def sizeStmts (t c : Nat) : List HostStmt := [.rd offCONFIG c, .field t c 24 16]

/-- `BLOCKSIZE -> %t` (R112, 41_sponge.md R182). -/
def blockSizeStmts (t c : Nat) : List HostStmt := [.rd offCONFIG c, .field t c 7 0]

/-- Whether `WRITE` reports an error: its last STATUS read has ERR != 0 (R112). -/
def writeFailed (status : Word) : Bool := (status.extractLsb' 16 8) != 0

end Sys2Proof.Machine
end

