-- ==== Sys2Proof/Machine/HostStep.lean ====
section
/-! DEFINITION. The host agent's step (00_scope.md R14): a bus access, decoded and executed, or a statement without
one; and the placement of a word where the next step fetches it. -/

namespace Sys2Proof.Machine

/-- A word the decoder refuses: an illegal command word is what a WR_CMD of it does (30_encoding.md R106), any other
refusal is a bus error (R109). -/
def rejectedWord (p : PortWord) (s : State) : Host.Outcome State Fault Refusal :=
  match p with
  | .cmd w => respondWrite (·.commandWrite w) s
  | .bus op _ => .next (busError (busWrites op) s)

/-- One access at the port: refused during reset (70_reset_and_hazards.md R276); else the decoded instruction runs. -/
def access (p : PortWord) (s : State) : Host.Outcome State Fault Refusal :=
  if s.rstN then
    match decode p with
    | .ok i => exec i s
    | .error _ => rejectedWord p s
  else .refused .accessDuringReset

/-- The host moves past its statement. -/
def advanceHost (s : State) : State := { s with host := s.host.advance }

/-- A statement without an access: a label, BNZ, BZ, JMP, HALT or a field. That it takes a host step of its own is the
model's choice (log 22). -/
def localStep (st : HostStmt) (s : State) : Host.Outcome State Fault Refusal :=
  match s.host.runLocal st with
  | .ok h => .next { s with host := h }
  | .error r => .fault r

/-- The host's step: one statement of its program. A statement with an access is the one bus access of R14; one
without an access spends a host step too, the model's choice (log 22). A host with nothing to execute presents no
access, and nothing happens (log 2). -/
def hostStep (s : State) : Host.Outcome State Fault Refusal :=
  match s.host.current with
  | none => .next s
  | some st =>
    match st.portWord with
    | some p => thenNext (access p (advanceHost s)) (latch st.dest)
    | none => localStep st s

/-- The event whose turn it is, taken out of `turns`. With `turns` used up, a pending command completes first (weak
fairness, 10_state.md R37), then the host moves (log 1). -/
def nextTurn (s : State) : Turn × State :=
  match s.turns with
  | t :: rest => (t, { s with turns := rest })
  | [] => (if s.kse.pend.isSome then .engine else .host, s)

/-- One event. -/
def runTurn (t : Turn) (s : State) : Host.Outcome State Fault Refusal :=
  match t with
  | .host => hostStep s
  | .engine => .next (engineStep s)
  | .rstLow => .next (assertReset s)
  | .rstHigh => .next (releaseReset s)

/-! ## Placing a word for the next step -/

/-- The host statement that brings a word to the port; a read's data goes to `%0`. -/
def stmtOf : PortWord → HostStmt
  | .cmd w => .cmd w
  | .bus op d => if busWrites op then .wr (busAddr op) d else .rd (busAddr op) 0

/-- A statement inserted where the host stands, and the next turn given to the host, with `rst_n` = 1 (log 11). -/
def placeStmt (st : HostStmt) (s : State) : State :=
  { s with
    rstN := true
    turns := .host :: s.turns
    host :=
      { s.host with
        prog := s.host.prog.take s.host.next ++ st :: s.host.prog.drop s.host.next
        next := min s.host.next s.host.prog.length
        halted := false } }

/-- A table word placed; a number that is no word of the table's formats places nothing. -/
def placeTableWord (s : State) (nbits w : Nat) : State :=
  match tableWord nbits w with
  | some p => placeStmt (stmtOf p) s
  | none => s

end Sys2Proof.Machine
end

