-- ==== Sys2Proof/Machine/Step.lean ====
section
/-! DEFINITION. One step of the machine: one event of one agent (00_scope.md R14). -/

namespace Sys2Proof.Machine

/-- A host step, an engine completion or a change of `rst_n`, never two of them (R14, 60_exceptions.md R236). A host
step is one access, or one statement without an access (log 22). -/
def step (s : State) : Host.Outcome State Fault Refusal :=
  runTurn (nextTurn s).1 (nextTurn s).2

/-- `s` with an instruction's word where the next step fetches it (log 11). -/
def State.withFetchWord (s : State) (nbits w : Nat) : State := placeTableWord s nbits w

end Sys2Proof.Machine
end

