-- ==== Sys2Proof/Safety.lean ====
section
/-! DEFINITION. What counts as a safe state and a finished run: the invariant of 10_state.md R44, made inductive, and
the end of a run (70_reset_and_hazards.md R282). -/

namespace Sys2Proof.Machine

/-- R44.5, R23: CONFIG holds legal values. -/
def Kse.ConfigLegal (k : Kse) : Prop :=
  (1 ≤ k.rateBytes.toNat ∧ k.rateBytes.toNat ≤ 200) ∧
  (0x01 ≤ k.suffix.toNat ∧ k.suffix.toNat ≤ 0x7F) ∧
  (1 ≤ k.outBytes.toNat ∧ k.outBytes.toNat ≤ 256)

/-- What an accepted command is: LEN is at most 8, RESET and PERMUTE latch no byte, ABSORB and FINALIZE are accepted
only with DONE = 0, and all but RESET have set LOCKED (30_encoding.md R104, R105). -/
def Kse.PendLegal (k : Kse) (p : Pending) : Prop :=
  match p.op with
  | .reset => p.bytes = []
  | .permute => p.bytes = [] ∧ k.locked = true
  | .absorb => p.bytes.length ≤ 8 ∧ k.locked = true ∧ k.done = false
  | .finalize => p.bytes.length ≤ 8 ∧ k.locked = true ∧ k.done = false

/-- The sponge as it is before a digest begins. -/
def Kse.Fresh (k : Kse) : Prop :=
  k.lanes = Vector.replicate 25 0 ∧ k.abuf = [] ∧ k.done = false ∧ k.permCount = 0 ∧ k.dout = Vector.replicate 256 0

/-- The invariant of a KSE: the five facts of 10_state.md R44, with what an accepted command is. -/
structure Kse.Inv (k : Kse) : Prop where
  busy_iff_pend : k.busy = true ↔ k.pend ≠ none
  abuf_lt_rate : k.abuf.length < k.rateBytes.toNat
  done_abuf : k.done = true → k.abuf = []
  unlocked_idle_fresh : k.locked = false → k.busy = false → k.Fresh
  config : k.ConfigLegal
  pending : ∀ p, k.pend = some p → k.PendLegal p

/-- The invariant of the machine: the KSE's, held at its reset values while `rst_n` = 0, and the canonical form of
the host's temporaries. -/
structure State.Inv (s : State) : Prop where
  kse : s.kse.Inv
  held : s.rstN = false → s.kse = Kse.reset
  temps : Temps.wf s.host.temps = true

/-- The host's run is over: HALT executed and BUSY = 0 (R282). -/
def State.runOver (s : State) : Bool := s.host.halted && !s.kse.busy

/-- One command at an idle KSE, from its acceptance to its completion: the host's access, then the engine's step. -/
def commandCycle (i : Instr) (s : State) : Option State :=
  match exec i s with
  | .next t => some (engineStep t)
  | .fault _ => none
  | .refused _ => none

/-- STAGE of a chunk and CMDW ABSORB of its length, as the effect on the KSE (30_encoding.md R112). -/
def Kse.writeChunk (k : Kse) (bs : List Byte) : Kse :=
  (((k.setDinLo (wordOfBytes bs)).setDinHi (wordOfBytes (bs.drop 4))).commandWrite (absorbWord bs.length)).engine

/-- The chunks of a message one after another. -/
def Kse.writeChunks (k : Kse) (chunks : List (List Byte)) : Kse := chunks.foldl Kse.writeChunk k

/-- STAGE of the extra bytes and CMDW FINALIZE of their length. -/
def Kse.finalizeChunk (k : Kse) (e : List Byte) : Kse :=
  (((k.setDinLo (wordOfBytes e)).setDinHi (wordOfBytes (e.drop 4))).commandWrite (finalizeWord e.length)).engine

/-! ## Words for statements -/

/-- The eleven bus reads (30_encoding.md R109). -/
def isBusRead : Instr → Bool
  | .rdId | .rdHwcfg | .rdConfig | .rdCmd | .rdStatus | .rdIrqEn | .rdDinLo | .rdDinHi | .rdPermCount => true
  | .rdState _ | .rdDout _ => true
  | .nop | .reset | .absorb _ | .finalize _ | .permute => false
  | .wrId _ | .wrHwcfg _ | .wrConfig _ | .wrCmd _ | .wrStatus _ | .wrIrqEn _ | .wrDinLo _ | .wrDinHi _ => false
  | .wrPermCount _ | .wrState _ _ | .wrDout _ _ => false

/-- The instructions that write CMD: the five commands, and WR_CMD of any word (20_memory.md R74). -/
def isCommand : Instr → Bool
  | .nop | .reset | .absorb _ | .finalize _ | .permute | .wrCmd _ => true
  | .rdId | .rdHwcfg | .rdConfig | .rdCmd | .rdStatus | .rdIrqEn | .rdDinLo | .rdDinHi | .rdPermCount => false
  | .rdState _ | .rdDout _ => false
  | .wrId _ | .wrHwcfg _ | .wrConfig _ | .wrStatus _ | .wrIrqEn _ | .wrDinLo _ | .wrDinHi _ => false
  | .wrPermCount _ | .wrState _ _ | .wrDout _ _ => false

/-- `s` after a read that answered the exact word `w`. -/
def State.afterRead (s : State) (w : Word) : State := { s with response := .read w .okay }

/-- `s` after a read that answered an unspecified word, the one drawn now. -/
def State.afterFreeRead (s : State) (w : Nat → Word) : State :=
  { s with response := .read (w s.draws) .okay, draws := s.draws + 1 }

/-- `s` after a write that left the KSE as `k`. -/
def State.afterWrite (s : State) (k : Kse) : State := { s with kse := k, response := .write .okay }

/-- The first `q` blocks of `rate` bytes of a byte string, absorbed one after another: each XORed into the rate
portion and permuted (41_sponge.md R175). -/
def absorbBlocks (S : Lanes) (rate : Nat) (m : List Byte) (q : Nat) : Lanes :=
  (List.range q).foldl (fun T b => keccakF (xorFrom 0 T ((m.drop (b * rate)).take rate))) S

/-- The lanes row by row, y = 0 .. 4, each row x = 0 .. 4, as 95_test_vectors.md prints a state. -/
def laneRows (A : Lanes) : List (List Lane) := (List.range 5).map fun y => (List.range 5).map fun x => A.at x y

/-- `n` invocations of KeccakF one after another. -/
def keccakIter (n : Nat) (S : Lanes) : Lanes := keccakF^[n] S

end Sys2Proof.Machine
end

