-- ==== Sys2Proof/Certificates/Slice0/Obligations.lean ====
section
/-! DEFINITION. The statements about the model, each from a rule of spec/. A docstring names the rule, or says that
the statement rests on an inference of the spec's or on a choice of the model's. -/

open Sys2Proof Sys2Proof.Machine

/-! ## Encoding -/

/-- 30_encoding.md R101, R109, R111: no bit of an encoding is dropped, for every well-formed instruction. -/
def Obligations.DecodeOfEncodeIsIdentity : Prop :=
  ∀ i : Instr, WellFormed i = true → decode (encode i) = .ok i

/-- R104, R109: a word the decoder accepts is the encoding of the instruction it gives, and that instruction is
well-formed. A bus read has no write data: any data word stands beside it. -/
def Obligations.EncodeOfDecodeIsTheWord : Prop :=
  ∀ (p : PortWord) (i : Instr), decode p = .ok i →
    WellFormed i = true ∧
    (encode i = p ∨ ∃ op d, p = .bus op d ∧ busWrites op = false ∧ encode i = .bus op 0)

/-- R111 and the match column of R109: words written out in the spec decode to the instruction they stand for. -/
def Obligations.SpecWordsDecode : Prop :=
  decode (.cmd 0x00000000) = .ok .nop ∧
  decode (.cmd 0x00000001) = .ok .reset ∧
  decode (.cmd 0x00000032) = .ok (.absorb 3) ∧
  decode (.cmd 0x00000082) = .ok (.absorb 8) ∧
  decode (.cmd 0x00000003) = .ok (.finalize 0) ∧
  decode (.cmd 0x00000004) = .ok .permute ∧
  decode (.cmd 0x00000092) = .error .badLength ∧
  decode (.bus 0x0010 0) = .ok .rdStatus ∧
  decode (.bus 0x023C 0) = .ok (.rdDout 15) ∧
  decode (.bus 0x01C4 0) = .ok (.rdState 49) ∧
  decode (.bus 0x100C 0x00000005) = .ok (.wrCmd 0x00000005) ∧
  decode (.bus 0x1008 0x00200688) = .ok (.wrConfig 0x00200688) ∧
  decode (.bus 0x0024 0) = .error .unmapped ∧
  decode (.bus 0x0011 0) = .error .misaligned

/-- R106: the illegal command words are exactly those with RSV != 0, with OPC 0x5 .. 0xF, with LEN != 0 on NOP, RESET
or PERMUTE, with LEN 9 .. 15 on ABSORB or FINALIZE; each is refused with ILLEGAL_CMD (BUSY = 0) and nothing else. -/
def Obligations.IllegalCommandWords : Prop :=
  ∀ w : Word,
    ((∃ e, decodeCommand w = .error e) ↔
      (w.extractLsb' 8 24 ≠ 0 ∨
        5 ≤ (w.extractLsb' 0 4).toNat ∨
        ((w.extractLsb' 0 4).toNat ∈ [0, 1, 4] ∧ w.extractLsb' 4 4 ≠ 0) ∨
        ((w.extractLsb' 0 4).toNat ∈ [2, 3] ∧ 9 ≤ (w.extractLsb' 4 4).toNat))) ∧
    ∀ s : State, s.kse.busy = false → (∃ e, decodeCommand w = .error e) →
      exec (.wrCmd w) s = .next (s.afterWrite (s.kse.recordErr .illegalCmd))

/-- R65, R69: the offsets that end with resp = ERROR are the misaligned ones and the aligned ones in 0x024 .. 0x0FC
and 0x300 .. 0xFFC; a read returns 0 and no state changes. -/
def Obligations.MisalignedAndUnmappedAccess : Prop :=
  ∀ (off : Offset) (d : Word),
    let bad := off.extractLsb' 0 2 ≠ 0 ∨ (0x024 ≤ off.toNat ∧ off.toNat ≤ 0x0FC) ∨
      (0x300 ≤ off.toNat ∧ off.toNat ≤ 0xFFC)
    (bad ↔ ∃ e, decode (.bus (busOp false off) d) = .error e) ∧
    (bad ↔ ∃ e, decode (.bus (busOp true off) d) = .error e) ∧
    (bad → ∀ s : State, s.rstN = true →
      access (.bus (busOp false off) d) s = .next { s with response := .read 0 .error } ∧
      access (.bus (busOp true off) d) s = .next { s with response := .write .error })

/-! ## Reads -/

/-- R79: a bus read completes, and changes nothing but the port's answer (and the model's own counter of unspecified
values, log 5, only while BUSY = 1); with BUSY = 0 the same read again changes nothing more, so it returns the same
value. -/
def Obligations.ReadsChangeNoState : Prop :=
  ∀ (i : Instr) (s : State), isBusRead i = true →
    ∃ w n, exec i s = .next { s with response := .read w .okay, draws := n } ∧
      (s.kse.busy = false → n = s.draws ∧
        exec i { s with response := .read w .okay } = .next { s with response := .read w .okay })

/-- R21: ID always reads 0x4B454343, "KECC", and a write to it is ignored. -/
def Obligations.IdRegister : Prop :=
  ∀ s : State,
    exec .rdId s = .next (s.afterRead 0x4B454343) ∧
    (∀ d, exec (.wrId d) s = .next (s.afterWrite s.kse)) ∧
    [(0x4B454343 : Word).extractLsb' 24 8, (0x4B454343 : Word).extractLsb' 16 8,
      (0x4B454343 : Word).extractLsb' 8 8, (0x4B454343 : Word).extractLsb' 0 8].map (·.toNat) =
      "KECC".toList.map (·.toNat)

/-- R22: HWCFG is one constant word, the same in every state, with the build's ROUNDS_PER_CYCLE (one of eight),
MAX_RATE_BYTES = 200 and OUT_BUF_BYTES = 256; for ROUNDS_PER_CYCLE = 1 it is 0x0100C801. A write is ignored. -/
def Obligations.HwcfgRegister : Prop :=
  ∃ w : Word,
    (∀ s : State, exec .rdHwcfg s = .next (s.afterRead w) ∧
      ∀ d, exec (.wrHwcfg d) s = .next (s.afterWrite s.kse)) ∧
    (w.extractLsb' 0 8).toNat = Config.roundsPerCycle.rounds ∧
    (w.extractLsb' 0 8).toNat ∈ [1, 2, 3, 4, 6, 8, 12, 24] ∧
    (w.extractLsb' 8 8).toNat = 200 ∧
    (w.extractLsb' 16 16).toNat = 256 ∧
    w = hwcfgWord Config.roundsPerCycle ∧
    hwcfgWord .k1 = 0x0100C801

/-- R23, R60: the layout of a CONFIG read; exact in every state. -/
def Obligations.ConfigReadLayout : Prop :=
  ∀ s : State, ∃ w : Word, exec .rdConfig s = .next (s.afterRead w) ∧
    w.extractLsb' 0 8 = s.kse.rateBytes ∧ w.extractLsb' 8 8 = s.kse.suffix ∧
    w.extractLsb' 16 9 = s.kse.outBytes ∧ w.extractLsb' 25 7 = 0

/-- R29, R33, R72, R220: the layout of a STATUS read. While BUSY = 1 ABUF_COUNT is an unspecified byte and every
other bit is exact; that the byte is an opaque function of the counter `draws` is the model's choice (log 5). -/
def Obligations.StatusReadLayout : Prop :=
  ∀ s : State, ∃ w : Word,
    w.getLsbD 0 = s.kse.busy ∧ w.getLsbD 1 = s.kse.done ∧ w.getLsbD 2 = s.kse.locked ∧
    w.extractLsb' 3 5 = 0 ∧ w.extractLsb' 24 8 = 0 ∧
    (w.extractLsb' 16 8).toNat =
      (match s.kse.err with
        | .none => 0 | .illegalCmd => 1 | .busyErr => 2 | .sequence => 3 | .cfgLocked => 4 | .cfgInvalid => 5) ∧
    (s.kse.busy = false → w.extractLsb' 8 8 = BitVec.ofNat 8 s.kse.abuf.length ∧
      exec .rdStatus s = .next (s.afterRead w)) ∧
    (s.kse.busy = true → w.extractLsb' 8 8 = Config.freeAbufCount s.draws ∧
      exec .rdStatus s = .next (s.afterFreeRead fun _ => w))

/-- R43, R35, R36, R72: CMD reads 0, IRQ_EN its two bits, DIN_LO and DIN_HI their words; exact in every state. -/
def Obligations.PlainRegisterReads : Prop :=
  ∀ s : State,
    exec .rdCmd s = .next (s.afterRead 0) ∧
    exec .rdDinLo s = .next (s.afterRead s.kse.dinLo) ∧
    exec .rdDinHi s = .next (s.afterRead s.kse.dinHi) ∧
    ∃ w : Word, exec .rdIrqEn s = .next (s.afterRead w) ∧
      w.getLsbD 0 = s.kse.doneIe ∧ w.getLsbD 1 = s.kse.errIe ∧ w.extractLsb' 2 30 = 0

/-- R42, R60, R72: PERM_COUNT reads exactly with BUSY = 0; while BUSY = 1 it reads an unspecified word,
in the model an opaque function of the counter `draws` (log 5). -/
def Obligations.PermCountRead : Prop :=
  ∀ s : State,
    (s.kse.busy = false → exec .rdPermCount s = .next (s.afterRead s.kse.permCount)) ∧
    (s.kse.busy = true → exec .rdPermCount s = .next (s.afterFreeRead Config.freePermCount))

/-- R70: word w is read at offset 0x100 + 4w; lane i is at offsets 0x100 + 8i (low half) and 0x104 + 8i (high half);
words 50 .. 63 read 0 at all times; while BUSY = 1 words 0 .. 49 read an unspecified word. That this word is an opaque
function of the counter `draws`, which the read advances, is the model's choice (log 5). -/
def Obligations.StateWindowRead : Prop :=
  (∀ w : BitVec 6, decodeBus (BitVec.ofNat 13 (0x100 + 4 * w.toNat)) 0 = .ok (.rdState w)) ∧
  ∀ s : State,
    (∀ (i : Nat) (hi : i < 25),
      decodeBus (BitVec.ofNat 13 (0x100 + 8 * i)) 0 = .ok (.rdState (BitVec.ofNat 6 (2 * i))) ∧
      decodeBus (BitVec.ofNat 13 (0x104 + 8 * i)) 0 = .ok (.rdState (BitVec.ofNat 6 (2 * i + 1))) ∧
      (s.kse.busy = false →
        exec (.rdState (BitVec.ofNat 6 (2 * i))) s = .next (s.afterRead (s.kse.lanes[i].extractLsb' 0 32)) ∧
        exec (.rdState (BitVec.ofNat 6 (2 * i + 1))) s =
          .next (s.afterRead (s.kse.lanes[i].extractLsb' 32 32)))) ∧
    (∀ w : BitVec 6, 50 ≤ w.toNat → exec (.rdState w) s = .next (s.afterRead 0)) ∧
    (∀ w : BitVec 6, w.toNat < 50 → s.kse.busy = true →
      exec (.rdState w) s = .next (s.afterFreeRead Config.freeStateWord))

/-- R71: DOUT word w is read at offset 0x200 + 4w, and holds bytes 4w .. 4w + 3, little-endian, unless BUSY = 1 and
FINALIZE or RESET is pending: then it reads an unspecified word. That this word is an opaque function of the counter
`draws`, which the read advances, is the model's choice (log 5). -/
def Obligations.DoutWindowRead : Prop :=
  ∀ (s : State) (w : BitVec 6),
    decodeBus (BitVec.ofNat 13 (0x200 + 4 * w.toNat)) 0 = .ok (.rdDout w) ∧
    ((s.kse.busy = true ∧ ∃ p, s.kse.pend = some p ∧ (p.op = .finalize ∨ p.op = .reset)) →
      exec (.rdDout w) s = .next (s.afterFreeRead Config.freeDoutWord)) ∧
    (¬ (s.kse.busy = true ∧ ∃ p, s.kse.pend = some p ∧ (p.op = .finalize ∨ p.op = .reset)) →
      ∃ v : Word, exec (.rdDout w) s = .next (s.afterRead v) ∧
        ∀ (j : Nat) (hj : j < 4), v.extractLsb' (8 * j) 8 = s.kse.dout[4 * w.toNat + j]'(by omega))

/-! ## Writes -/

/-- R67: ConfigWrite updates the whole register or nothing; its refusals in their order; the worked example. -/
def Obligations.ConfigWriteEffect : Prop :=
  ∀ (s : State) (d : Word),
    let r := d.extractLsb' 0 8
    let u := d.extractLsb' 8 8
    let o := d.extractLsb' 16 9
    let legal := (1 ≤ r.toNat ∧ r.toNat ≤ 200) ∧ (0x01 ≤ u.toNat ∧ u.toNat ≤ 0x7F) ∧ (1 ≤ o.toNat ∧ o.toNat ≤ 256)
    (s.kse.busy = true → exec (.wrConfig d) s = .next (s.afterWrite (s.kse.recordErr .busyErr))) ∧
    (s.kse.busy = false → s.kse.locked = true →
      exec (.wrConfig d) s = .next (s.afterWrite (s.kse.recordErr .cfgLocked))) ∧
    (s.kse.busy = false → s.kse.locked = false → ¬ legal →
      exec (.wrConfig d) s = .next (s.afterWrite (s.kse.recordErr .cfgInvalid))) ∧
    (s.kse.busy = false → s.kse.locked = false → legal →
      exec (.wrConfig d) s =
        .next (s.afterWrite { s.kse with rateBytes := r, suffix := u, outBytes := o })) ∧
    (s.kse.busy = false → s.kse.locked = false →
      exec (.wrConfig 0x00200688) s =
        .next (s.afterWrite { s.kse with rateBytes := 136, suffix := 0x06, outBytes := 32 }))

/-- R68: a STATUS write with bit 31 = 1 clears ERR and nothing else, in every state; any other STATUS write changes
nothing. -/
def Obligations.StatusWriteEffect : Prop :=
  ∀ (s : State) (d : Word),
    (d.getLsbD 31 = true → exec (.wrStatus d) s = .next (s.afterWrite { s.kse with err := .none })) ∧
    (d.getLsbD 31 = false → exec (.wrStatus d) s = .next (s.afterWrite s.kse))

/-- R73: writes to IRQ_EN (0x014), DIN_LO (0x018) and DIN_HI (0x01C) take effect in every state, also while BUSY = 1. -/
def Obligations.RegisterWriteEffect : Prop :=
  ∀ (s : State) (d : Word),
    decode (.bus (busOp true 0x014) d) = .ok (.wrIrqEn d) ∧
    decode (.bus (busOp true 0x018) d) = .ok (.wrDinLo d) ∧
    decode (.bus (busOp true 0x01C) d) = .ok (.wrDinHi d) ∧
    exec (.wrIrqEn d) s = .next (s.afterWrite { s.kse with doneIe := d.getLsbD 0, errIe := d.getLsbD 1 }) ∧
    exec (.wrDinLo d) s = .next (s.afterWrite { s.kse with dinLo := d }) ∧
    exec (.wrDinHi d) s = .next (s.afterWrite { s.kse with dinHi := d })

/-- R66: a write to a read-only offset returns OKAY and changes no state. -/
def Obligations.ReadOnlyWritesIgnored : Prop :=
  ∀ (s : State) (d : Word) (w : BitVec 6),
    exec (.wrId d) s = .next (s.afterWrite s.kse) ∧
    exec (.wrHwcfg d) s = .next (s.afterWrite s.kse) ∧
    exec (.wrPermCount d) s = .next (s.afterWrite s.kse) ∧
    exec (.wrState w d) s = .next (s.afterWrite s.kse) ∧
    exec (.wrDout w d) s = .next (s.afterWrite s.kse)

/-- R74, R104, R110: a CMD write of a word is what the command of that word does, in every state, refusals and their
priorities included; a word that is no command records ILLEGAL_CMD, or BUSY_ERR while BUSY = 1. -/
def Obligations.WrCmdActsAsItsCommand : Prop :=
  ∀ (s : State) (d : Word),
    (∀ i, decodeCommand d = .ok i → exec (.wrCmd d) s = exec i s) ∧
    (∀ e, decodeCommand d = .error e →
      exec (.wrCmd d) s =
        .next (s.afterWrite (s.kse.recordErr (if s.kse.busy then .busyErr else .illegalCmd))))

/-- R74, R104, R105: with BUSY = 0 a CMD write of a legal word is accepted, with the effect of its command; ABSORB n and
FINALIZE n with DONE = 0. -/
def Obligations.CmdWriteAcceptsALegalWord : Prop :=
  ∀ s : State, s.kse.busy = false →
    exec (.wrCmd 0x00000000) s = .next (s.afterWrite s.kse) ∧
    exec (.wrCmd 0x00000001) s = .next (s.afterWrite
      { s.kse with err := .none, busy := true, pend := some { op := .reset, bytes := [] } }) ∧
    exec (.wrCmd 0x00000004) s = .next (s.afterWrite
      { s.kse with locked := true, busy := true, pend := some { op := .permute, bytes := [] } }) ∧
    ∀ n : BitVec 4, n.toNat ≤ 8 → s.kse.done = false →
      exec (.wrCmd ((0 : BitVec 24) ++ n ++ (0x2 : BitVec 4))) s = .next (s.afterWrite
        { s.kse with
          locked := true, busy := true, pend := some { op := .absorb, bytes := s.kse.stagedBytes n.toNat } }) ∧
      exec (.wrCmd ((0 : BitVec 24) ++ n ++ (0x3 : BitVec 4))) s = .next (s.afterWrite
        { s.kse with
          locked := true, busy := true, pend := some { op := .finalize, bytes := s.kse.stagedBytes n.toNat } })

/-! ## Commands -/

/-- R170: an accepted NOP changes nothing, also with DONE = 1 and with LOCKED = 1. -/
def Obligations.NopChangesNothing : Prop :=
  ∀ s : State, s.kse.busy = false → exec .nop s = .next (s.afterWrite s.kse)

/-- R141: PERMUTE's acceptance, also with DONE = 1, and its completion: KeccakF once, counted; ABUF, DONE, DOUT, CONFIG
and ERR unchanged. -/
def Obligations.PermuteAcceptedAndCompleted : Prop :=
  ∀ s : State, s.kse.busy = false →
    ∃ t, exec .permute s = .next t ∧
      t = s.afterWrite { s.kse with locked := true, busy := true, pend := some { op := .permute, bytes := [] } } ∧
      engineStep t = t.afterWrite
        { s.kse with
          lanes := keccakF s.kse.lanes, permCount := s.kse.permCount + 1, locked := true, busy := false, pend := none }

/-- R184: RESET's acceptance clears ERR; its completion zeroes S, ABUF, DONE, LOCKED, PERM_COUNT and DOUT and keeps
CONFIG, IRQ_EN and DIN; an error recorded while it is pending stays. -/
def Obligations.ResetAcceptedAndCompleted : Prop :=
  ∀ s : State,
    (s.kse.busy = false →
      exec .reset s = .next (s.afterWrite
        { s.kse with err := .none, busy := true, pend := some { op := .reset, bytes := [] } })) ∧
    (∀ b, s.kse.pend = some { op := .reset, bytes := b } →
      (engineStep s).kse =
        { Kse.reset with
          rateBytes := s.kse.rateBytes, suffix := s.kse.suffix, outBytes := s.kse.outBytes,
          doneIe := s.kse.doneIe, errIe := s.kse.errIe, dinLo := s.kse.dinLo, dinHi := s.kse.dinHi,
          err := s.kse.err })

/-- R172, R177, R83, R102: a legal ABSORB n or FINALIZE n with BUSY = 0 and DONE = 0 is accepted: LOCKED is set, and
PEND latches staged bytes 0 .. n-1 of DIN_HI:DIN_LO. -/
def Obligations.AbsorbAndFinalizeAccepted : Prop :=
  ∀ (s : State) (n : BitVec 4), n.toNat ≤ 8 → s.kse.busy = false → s.kse.done = false →
    let staged : List Byte :=
      (List.range n.toNat).map fun k =>
        if k < 4 then s.kse.dinLo.extractLsb' (8 * k) 8 else s.kse.dinHi.extractLsb' (8 * (k - 4)) 8
    exec (.absorb n) s = .next (s.afterWrite
      { s.kse with locked := true, busy := true, pend := some { op := .absorb, bytes := staged } }) ∧
    exec (.finalize n) s = .next (s.afterWrite
      { s.kse with locked := true, busy := true, pend := some { op := .finalize, bytes := staged } })

/-- R172, R173: the completion of ABSORB: the buffered and the new bytes are absorbed in whole blocks, floor((c + n)/RATE)
of them, and the rest stays in ABUF, (c + n) mod RATE bytes; nothing else changes. From every state of the invariant. -/
def Obligations.AbsorbCompletionIsBlockwise : Prop :=
  ∀ (s : State) (bytes : List Byte), s.kse.Inv → s.kse.pend = some { op := .absorb, bytes := bytes } →
    let rate := s.kse.rateBytes.toNat
    let m := s.kse.abuf ++ bytes
    let q := m.length / rate
    let k := (engineStep s).kse
    k = { s.kse with
          lanes := absorbBlocks s.kse.lanes rate m q, abuf := m.drop (q * rate),
          permCount := s.kse.permCount + BitVec.ofNat 32 q, busy := false, pend := none } ∧
    k.abuf.length = (s.kse.abuf.length + bytes.length) % rate

/-- R177, R176, R26: the completion of FINALIZE. All bytes are absorbed in blocks, the rest is padded and absorbed; with
T the state after that, digest byte j is state byte j mod RATE of T after j div RATE more permutations; DOUT is 0 from
OUT on; S is the state the last bytes came from; PERM_COUNT counts every permutation. From every state of the
invariant. -/
def Obligations.FinalizeCompletionDigest : Prop :=
  ∀ (s : State) (bytes : List Byte), s.kse.Inv → s.kse.pend = some { op := .finalize, bytes := bytes } →
    let rate := s.kse.rateBytes.toNat
    let out := s.kse.outBytes.toNat
    let m := s.kse.abuf ++ bytes
    let q := m.length / rate
    let T := keccakF (xorFrom 0 (absorbBlocks s.kse.lanes rate m q) (pad (m.drop (q * rate)) rate s.kse.suffix))
    let k := (engineStep s).kse
    (∀ (j : Nat) (hj : j < 256),
      k.dout[j] = if j < out then stateByte (keccakIter (j / rate) T) (j % rate) else 0) ∧
    k = { s.kse with
          lanes := keccakIter ((out - 1) / rate) T, abuf := [], dout := k.dout,
          permCount := s.kse.permCount + BitVec.ofNat 32 (q + 1 + (out - 1) / rate),
          done := true, busy := false, pend := none }

/-- R177's corner case, an inference of the spec's from R174: FINALIZE n gives the same KSE as ABSORB n followed by
FINALIZE 0 with the same DIN. -/
def Obligations.FinalizeIsAbsorbThenFinalize : Prop :=
  ∀ (s : State) (n : BitVec 4), n.toNat ≤ 8 → s.kse.busy = false → s.kse.done = false →
    ∃ t u v, commandCycle (.finalize n) s = some t ∧ commandCycle (.absorb n) s = some u ∧
      commandCycle (.finalize 0) u = some v ∧ v.kse = t.kse

/-- R104, R222, R223, R224, R235, R221: while BUSY = 1 every CMD write records BUSY_ERR only; with BUSY = 0 LEN above 8
records ILLEGAL_CMD only, also with DONE = 1; with BUSY = 0 and DONE = 1 a legal ABSORB or FINALIZE records SEQUENCE
only. RecordErr keeps the first error. -/
def Obligations.CommandRefusals : Prop :=
  (∀ (k : Kse) (e : ErrCode),
    (k.err = .none → k.recordErr e = { k with err := e }) ∧ (k.err ≠ .none → k.recordErr e = k)) ∧
  ∀ s : State,
    (∀ i, isCommand i = true → s.kse.busy = true →
      exec i s = .next (s.afterWrite (s.kse.recordErr .busyErr))) ∧
    (∀ n : BitVec 4, s.kse.busy = false → 8 < n.toNat →
      exec (.absorb n) s = .next (s.afterWrite (s.kse.recordErr .illegalCmd)) ∧
      exec (.finalize n) s = .next (s.afterWrite (s.kse.recordErr .illegalCmd))) ∧
    (∀ n : BitVec 4, s.kse.busy = false → n.toNat ≤ 8 → s.kse.done = true →
      exec (.absorb n) s = .next (s.afterWrite (s.kse.recordErr .sequence)) ∧
      exec (.finalize n) s = .next (s.afterWrite (s.kse.recordErr .sequence)))

/-- R104, R105, R221, the frame of the CMD writes: the port answers OKAY; of the KSE only ERR, LOCKED, BUSY and PEND may
differ; the agents, `rst_n` and the count of unspecified values do not. -/
def Obligations.CommandFrame : Prop :=
  ∀ (i : Instr) (s t : State), isCommand i = true → exec i s = .next t →
    t = s.afterWrite
      { s.kse with err := t.kse.err, locked := t.kse.locked, busy := t.kse.busy, pend := t.kse.pend }

/-- R28, R31, R41, R42, R240: every instruction completes, and no host access writes the lanes, ABUF, DONE, DOUT or
PERM_COUNT; CONFIG changes at a WR_CONFIG only, IRQ_EN at a WR_IRQ_EN, DIN_LO at a WR_DIN_LO, DIN_HI at a WR_DIN_HI. -/
def Obligations.HostAccessesLeaveTheSponge : Prop :=
  ∀ (i : Instr) (s : State), ∃ t, exec i s = .next t ∧
    t.kse.lanes = s.kse.lanes ∧ t.kse.abuf = s.kse.abuf ∧ t.kse.done = s.kse.done ∧
    t.kse.dout = s.kse.dout ∧ t.kse.permCount = s.kse.permCount ∧
    ((∀ d, i ≠ .wrConfig d) → t.kse.rateBytes = s.kse.rateBytes ∧ t.kse.suffix = s.kse.suffix ∧
      t.kse.outBytes = s.kse.outBytes) ∧
    ((∀ d, i ≠ .wrIrqEn d) → t.kse.doneIe = s.kse.doneIe ∧ t.kse.errIe = s.kse.errIe) ∧
    ((∀ d, i ≠ .wrDinLo d) → t.kse.dinLo = s.kse.dinLo) ∧
    ((∀ d, i ≠ .wrDinHi d) → t.kse.dinHi = s.kse.dinHi) ∧
    t.host = s.host ∧ t.turns = s.turns ∧ t.rstN = s.rstN

/-- R34, R221: a recorded error stays; over every access, ERR changes only from NONE, or to NONE at a STATUS write with
bit 31 = 1 or at the acceptance of RESET. -/
def Obligations.ErrIsSticky : Prop :=
  ∀ (i : Instr) (s t : State), exec i s = .next t → s.kse.err ≠ .none →
    t.kse.err = s.kse.err ∨
    (t.kse.err = .none ∧
      ((∃ d : Word, i = .wrStatus d ∧ d.getLsbD 31 = true) ∨
        (s.kse.busy = false ∧ (i = .reset ∨ i = .wrCmd 0x00000001))))

/-! ## Engine -/

/-- R37, R220: a completion retires the pending command and records no error; it leaves CONFIG, IRQ_EN, DIN, the port's
answer and the agents. With nothing pending the engine does nothing. -/
def Obligations.EngineFrame : Prop :=
  ∀ s : State,
    (s.kse.pend = none → engineStep s = s) ∧
    (s.kse.pend ≠ none → (engineStep s).kse.pend = none ∧ (engineStep s).kse.busy = false) ∧
    engineStep s = { s with kse := (engineStep s).kse } ∧
    (engineStep s).kse.err = s.kse.err ∧
    (engineStep s).kse.rateBytes = s.kse.rateBytes ∧ (engineStep s).kse.suffix = s.kse.suffix ∧
    (engineStep s).kse.outBytes = s.kse.outBytes ∧
    (engineStep s).kse.doneIe = s.kse.doneIe ∧ (engineStep s).kse.errIe = s.kse.errIe ∧
    (engineStep s).kse.dinLo = s.kse.dinLo ∧ (engineStep s).kse.dinHi = s.kse.dinHi

/-- R83, R224, R272: whatever access the host makes while BUSY = 1, the pending command completes as if the access had
not happened: a DIN write after acceptance does not change its bytes, and a refused write does not affect it. -/
def Obligations.PendingCommandIsUnaffected : Prop :=
  ∀ (i : Instr) (s : State), s.kse.busy = true → s.kse.pend ≠ none →
    ∃ t, exec i s = .next t ∧
      (engineStep t).kse =
        { (engineStep s).kse with
          err := t.kse.err, doneIe := t.kse.doneIe, errIe := t.kse.errIe, dinLo := t.kse.dinLo, dinHi := t.kse.dinHi }

/-- R230: irq is the OR of the two enabled sources, a function of the state. -/
def Obligations.IrqFollowsTheState : Prop :=
  ∀ k : Kse, k.irq = true ↔
    ((k.done = true ∧ k.doneIe = true) ∨ (k.err ≠ .none ∧ k.errIe = true))

/-- R31, R32: over every step, DONE rises only where a pending FINALIZE completes and falls only where a pending RESET
completes or at hardware reset; LOCKED rises only where ABSORB, FINALIZE or PERMUTE is accepted and falls like DONE. -/
def Obligations.DoneAndLockedTransitions : Prop :=
  ∀ s t : State, s.Inv → step s = .next t →
    (s.kse.done = false → t.kse.done = true →
      ∃ b, s.kse.pend = some { op := .finalize, bytes := b } ∧ t.kse = s.kse.engine) ∧
    (s.kse.done = true → t.kse.done = false →
      (∃ b, s.kse.pend = some { op := .reset, bytes := b } ∧ t.kse = s.kse.engine) ∨ t.kse = Kse.reset) ∧
    (s.kse.locked = false → t.kse.locked = true →
      s.kse.busy = false ∧ ∃ p, t.kse.pend = some p ∧ p.op ≠ .reset) ∧
    (s.kse.locked = true → t.kse.locked = false →
      (∃ b, s.kse.pend = some { op := .reset, bytes := b } ∧ t.kse = s.kse.engine) ∨ t.kse = Kse.reset)

/-! ## Reset -/

/-- R260: when `rst_n` falls, while it is 0, and when it is released, every component has its hardware-reset value,
whatever was pending; CONFIG reads 0x00400648; and no other event abandons a pending command. The model's own: the two
edges are steps taken from `turns` (log 1, log 7), the port has no answer after an edge (log 8), and the host agent and
the count of unspecified values are left alone (log 2, log 5). -/
def Obligations.HardwareReset : Prop :=
  let k : Kse :=
    { lanes := Vector.replicate 25 0, abuf := [], pend := none, busy := false, done := false, locked := false,
      err := .none, rateBytes := 72, suffix := 0x06, outBytes := 64, doneIe := false, errIe := false,
      dinLo := 0, dinHi := 0, permCount := 0, dout := Vector.replicate 256 0 }
  (∀ (s : State) (rest : List Turn),
    step { s with turns := .rstLow :: rest } =
      .next { s with turns := rest, kse := k, rstN := false, response := .none } ∧
    step { s with turns := .rstHigh :: rest, rstN := false } =
      .next { s with turns := rest, kse := k, rstN := true, response := .none }) ∧
  (∀ s t : State, s.rstN = false → s.kse = k → step s = .next t → t.kse = k) ∧
  (∀ (s t : State) (p : Pending), s.Inv → s.kse.pend = some p → step s = .next t →
    t.kse.pend = some p ∨ t.kse = s.kse.engine ∨ (s.turns.head? = some .rstLow ∧ t.kse = k)) ∧
  k.configWord = 0x00400648

/-- R261, R263: after reset the KSE is idle, unlocked, masked, and accepts accesses. STATUS reads 0x00000000 and CONFIG
0x00400648 (R29, R23). That no program and no turn stand in the state, and that the count of unspecified values is 0,
are the model's choices (log 1, log 2, log 5). -/
def Obligations.StateAfterReset : Prop :=
  State.reset.rstN = true ∧ State.reset.kse.busy = false ∧ State.reset.kse.locked = false ∧
  State.reset.kse.pend = none ∧ State.reset.kse.irq = false ∧
  exec .rdStatus State.reset = .next (State.reset.afterRead 0x00000000) ∧
  exec .rdConfig State.reset = .next (State.reset.afterRead 0x00400648) ∧
  exec .rdIrqEn State.reset = .next (State.reset.afterRead 0x00000000)

/-- R276: a bus access presented while `rst_n` = 0 is a refusal of the host step. -/
def Obligations.AccessDuringResetIsRefused : Prop :=
  ∀ (s : State) (rest : List Turn) (st : HostStmt) (p : PortWord),
    s.rstN = false → s.host.current = some st → st.portWord = some p →
    step { s with turns := .host :: rest } = .refused .accessDuringReset

/-! ## Invariants -/

/-- R44: the invariant holds after reset. -/
def Obligations.InvariantHoldsAtReset : Prop := State.reset.Inv

/-- R44: the invariant is kept by every step, of the host, of the engine and of hardware reset, from every state. -/
def Obligations.EveryStepKeepsTheInvariant : Prop :=
  ∀ s t : State, s.Inv → step s = .next t → t.Inv

/-- R44, its five facts, from the invariant (which is the spec's own derivation, made inductive). -/
def Obligations.InvariantGivesTheFiveFacts : Prop :=
  ∀ s : State, s.Inv →
    (s.kse.busy = true ↔ s.kse.pend ≠ none) ∧
    ((s.kse.busy = false ∨ ∀ p, s.kse.pend = some p → p.op ≠ .absorb ∧ p.op ≠ .finalize) →
      s.kse.abuf.length < s.kse.rateBytes.toNat) ∧
    (s.kse.done = true → s.kse.abuf = []) ∧
    (s.kse.locked = false → s.kse.busy = false →
      s.kse.lanes = Vector.replicate 25 0 ∧ s.kse.abuf = [] ∧ s.kse.done = false ∧ s.kse.permCount = 0 ∧
      s.kse.dout = Vector.replicate 256 0) ∧
    ((1 ≤ s.kse.rateBytes.toNat ∧ s.kse.rateBytes.toNat ≤ 200) ∧
      (0x01 ≤ s.kse.suffix.toNat ∧ s.kse.suffix.toNat ≤ 0x7F) ∧
      (1 ≤ s.kse.outBytes.toNat ∧ s.kse.outBytes.toNat ≤ 256))

/-! ## Steps -/

/-- A step runs the decoded instruction: on the host's turn (also with no turn left and nothing pending, log 1), with an
access statement whose word decodes to `i`, the step is exec of `i` after the host has moved past its statement, and
then the latch of a read's data; and with a table word placed, the very next step runs exactly its instruction on an
unchanged KSE (log 11). -/
def Obligations.StepRunsTheDecodedInstruction : Prop :=
  (∀ (s : State) (st : HostStmt) (p : PortWord) (i : Instr),
    (s.turns.head? = some .host ∨ (s.turns = [] ∧ s.kse.pend = none)) →
    s.host.current = some st → st.portWord = some p → s.rstN = true → decode p = .ok i →
    step s = thenNext (exec i (advanceHost { s with turns := s.turns.tail })) (latch st.dest)) ∧
  (∀ (s : State) (nbits w : Nat) (i : Instr), decodeTableWord nbits w = some i →
    ∃ u dest, step (s.withFetchWord nbits w) = thenNext (exec i u) (latch dest) ∧
      u.kse = s.kse ∧ u.turns = s.turns ∧ u.draws = s.draws ∧ u.rstN = true)

/-- R37: on the engine's turn the step is the completion of the pending command. The model's choice (log 1): turns are a
list in the state, and with none left and a command pending the engine moves, so that this step too is the completion. -/
def Obligations.StepCompletesThePendingCommand : Prop :=
  ∀ s : State, (s.turns.head? = some .engine ∨ (s.turns = [] ∧ s.kse.pend ≠ none)) →
    step s = .next (engineStep { s with turns := s.turns.tail })

/-- R37, weak fairness as the model's `turns` give it (log 1): a pending command is retired after at most as many steps
as there are turns, and one more, unless a step before that stops. -/
def Obligations.PendingCommandIsRetired : Prop :=
  ∀ s : State, s.kse.busy = true → s.kse.pend ≠ none →
    ∃ n ≤ s.turns.length + 1,
      (∀ t, core.run n s ≠ .next t) ∨ ∃ t, core.run n s = .next t ∧ t.kse.pend = none ∧ t.kse.busy = false

/-! ## Keccak -/

/-- 40_permutation.md section 2, the formulas of θ, ρ, π, χ, ι and their order, lane by lane. The spec adopts them from
general knowledge (93 K4, K8; log 21). -/
def Obligations.KeccakStepFormulas : Prop :=
  ∀ (A : Lanes) (ir x y : Nat), x < 5 → y < 5 →
    let C : Nat → Lane := fun c => A.at c 0 ^^^ A.at c 1 ^^^ A.at c 2 ^^^ A.at c 3 ^^^ A.at c 4
    (theta A).at x y = A.at x y ^^^ (C ((x + 4) % 5) ^^^ (C ((x + 1) % 5)).rotateLeft 1) ∧
    (rho A).at x y = (A.at x y).rotateLeft (rhoOffset x y) ∧
    (piStep A).at x y = A.at ((x + 3 * y) % 5) x ∧
    (chi A).at x y = A.at x y ^^^ (~~~ A.at ((x + 1) % 5) y &&& A.at ((x + 2) % 5) y) ∧
    (iota ir A).at x y = (if x = 0 ∧ y = 0 then A.at x y ^^^ roundConstant ir else A.at x y) ∧
    rnd A ir = iota ir (chi (piStep (rho (theta A))))

/-- 40_permutation.md section 2, the generators of the two tables (93 K2, K3; log 21): the ρ walk visits the 24 lanes
other than (0,0) and gives their offsets, and the LFSR gives the 24 round constants. -/
def Obligations.TablesMatchTheirGenerators : Prop :=
  rhoOffset 0 0 = 0 ∧
  (∀ t < 24, rhoOffset (rhoWalk t).1 (rhoWalk t).2 = ((t + 1) * (t + 2) / 2) % 64) ∧
  (∀ x < 5, ∀ y < 5, (x, y) ≠ (0, 0) → ∃ t < 24, rhoWalk t = (x, y)) ∧
  ∀ ir < 24, roundConstant ir = generatedRoundConstant ir

/-- 95_test_vectors.md V-P8 (derived there from the rules): KeccakF of the zero state. -/
def Obligations.KeccakOfTheZeroState : Prop :=
  laneRows (keccakF (Vector.replicate 25 0)) =
    [[0xF1258F7940E1DDE7, 0x84D5CCF933C0478A, 0xD598261EA65AA9EE, 0xBD1547306F80494D, 0x8B284E056253D057],
     [0xFF97A42D7F8E6FD4, 0x90FEE5A0A44647C4, 0x8C5BDA0CD6192E76, 0xAD30A6F71B19059C, 0x30935AB7D08FFC64],
     [0xEB5AA93F2317D635, 0xA9A6E6260D712103, 0x81A57C16DBCF555F, 0x43B831CD0347C826, 0x01F22F1A11A5569F],
     [0x05E5635A21D9AE61, 0x64BEFEF28CC970F2, 0x613670957BC46611, 0xB87C5A554FD00ECB, 0x8C3EE88A1CCF32C8],
     [0x940C7922AE3A2614, 0x1841F924A2C509E4, 0x16F53526E70465C2, 0x75F644E97F30A13B, 0xEAF1FF7B5CECA249]]

/-- R140: every datapath variant, 24/k cycles of k consecutive rounds, gives exactly KeccakF. -/
def Obligations.DatapathVariantsAgree : Prop :=
  ∀ (v : RoundsPerCycle) (S : Lanes), datapath v.rounds S = keccakF S

/-- 40_permutation.md section 3, R142 (from general knowledge there, 93 K6; log 21): KeccakF loses no state. -/
def Obligations.KeccakIsInjective : Prop := Function.Injective keccakF

/-! ## Sponge -/

/-- R176: the padded block: RATE bytes, the buffered bytes, the suffix after them, 0x80 in the last; both meet in one
byte when k = RATE - 1. -/
def Obligations.PadBytes : Prop :=
  ∀ (buf : List Byte) (rate : Nat) (suf : Byte), buf.length < rate →
    (pad buf rate suf).length = rate ∧
    ∀ i < rate, (pad buf rate suf)[i]? =
      some (buf.getD i 0 ^^^ (if i = buf.length then suf else 0) ^^^ (if i = rate - 1 then 0x80 else 0))

/-- R175, R24: XORing a block of RATE bytes into the state changes the rate bytes by exactly the block and no capacity
byte; AbsorbBlock then permutes once, counted. -/
def Obligations.BlockMeetsTheRatePortion : Prop :=
  ∀ (k : Kse) (B : List Byte), B.length ≤ 200 →
    (∀ i < 200, stateByte (xorFrom 0 k.lanes B) i = stateByte k.lanes i ^^^ B.getD i 0) ∧
    k.absorbBlock B =
      { k with lanes := keccakF (xorFrom 0 k.lanes B), permCount := k.permCount + 1 }

/-- R174, R112 (an inference of the spec's): at an idle KSE with DONE = 0, two ways to cut the same message into chunks
of at most 8 bytes, each staged and absorbed in turn, leave the same S, ABUF and PERM_COUNT, and give the same digest. -/
def Obligations.ChunkingDoesNotChangeTheDigest : Prop :=
  ∀ (k : Kse) (c₁ c₂ : List (List Byte)) (e : List Byte),
    k.busy = false → k.pend = none → k.done = false →
    (∀ c ∈ c₁, c.length ≤ 8) → (∀ c ∈ c₂, c.length ≤ 8) → e.length ≤ 8 → c₁.flatten = c₂.flatten →
    (k.writeChunks c₁).lanes = (k.writeChunks c₂).lanes ∧
    (k.writeChunks c₁).abuf = (k.writeChunks c₂).abuf ∧
    (k.writeChunks c₁).permCount = (k.writeChunks c₂).permCount ∧
    ((k.writeChunks c₁).finalizeChunk e).dout = ((k.writeChunks c₂).finalizeChunk e).dout ∧
    ((k.writeChunks c₁).finalizeChunk e).permCount = ((k.writeChunks c₂).finalizeChunk e).permCount

/-- R179 (an inference of the spec's): from an idle KSE with DONE = 0, ABUF empty and PERM_COUNT = 0, absorbing L bytes
in any chunks and finalizing takes floor(L / RATE) + 1 + (ceil(OUT / RATE) - 1) permutations (mod 2^32), and DONE is
set. -/
def Obligations.PermutationCountOfADigest : Prop :=
  ∀ (k : Kse) (c : List (List Byte)) (e : List Byte),
    k.Inv → k.busy = false → k.done = false → k.abuf = [] → k.permCount = 0 →
    (∀ b ∈ c, b.length ≤ 8) → e.length ≤ 8 →
    let rate := k.rateBytes.toNat
    let out := k.outBytes.toNat
    let k' := (k.writeChunks c).finalizeChunk e
    k'.permCount =
      BitVec.ofNat 32 ((c.flatten.length + e.length) / rate + 1 + ((out + rate - 1) / rate - 1)) ∧
    k'.done = true ∧ k'.busy = false

/-- R185 (an inference of the spec's): whatever the KSE did before, after a RESET has completed the same chunks give the
same digest, the same PERM_COUNT and the same STATUS as a KSE out of hardware reset of the same CONFIG; neither IRQ_EN
nor what was staged before matters. -/
def Obligations.ResetReproducesTheDigest : Prop :=
  ∀ (k : Kse) (c : List (List Byte)) (e : List Byte),
    k.busy = false → (∀ b ∈ c, b.length ≤ 8) → e.length ≤ 8 →
    let a := (((k.commandWrite 0x00000001).engine).writeChunks c).finalizeChunk e
    let fresh : Kse := { Kse.reset with rateBytes := k.rateBytes, suffix := k.suffix, outBytes := k.outBytes }
    let b := (fresh.writeChunks c).finalizeChunk e
    a.dout = b.dout ∧ a.permCount = b.permCount ∧ a.lanes = b.lanes ∧
    a.statusWord a.abufCount = b.statusWord b.abufCount

/-! ## The host agent -/

/-- R110: the host's branches, a label and HALT, on the host's turn; none of them touches the KSE. The model's choice: each
of them takes a host step of its own (log 22), and a label the program does not have is a fault (log 4). -/
def Obligations.HostBranches : Prop :=
  ∀ (s : State) (rest : List Turn) (t : Nat) (mask : Word) (l : Nat),
    let s' : State := { s with turns := .host :: rest }
    let onward : State := { s with turns := rest, host := { s.host with next := s.host.next + 1 } }
    let taken : Host.Outcome State Fault Refusal :=
      match s.host.prog.findIdx? (· == .label l) with
      | some n => .next { s with turns := rest, host := { s.host with next := n } }
      | none => .fault (.unboundLabel l)
    (s.host.current = some (.bnz t mask l) →
      step s' = if s.host.temp t &&& mask ≠ 0 then taken else .next onward) ∧
    (s.host.current = some (.bz t mask l) →
      step s' = if s.host.temp t &&& mask = 0 then taken else .next onward) ∧
    (s.host.current = some (.jmp l) → step s' = taken) ∧
    (s.host.current = some (.label l) → step s' = .next onward) ∧
    (s.host.current = some .halt →
      step s' = .next { s with turns := rest, host := { s.host with halted := true } })

/-- R112, R36: the two DIN writes of STAGE leave exactly the given bytes staged. -/
def Obligations.StageStagesItsBytes : Prop :=
  ∀ (s : State) (bs : List Byte), bs.length ≤ 8 →
    stageStmts bs = [.wr 0x018 (wordOfBytes bs), .wr 0x01C (wordOfBytes (bs.drop 4))] ∧
    ∃ t u, exec (.wrDinLo (wordOfBytes bs)) s = .next t ∧ exec (.wrDinHi (wordOfBytes (bs.drop 4))) t = .next u ∧
      u.kse.stagedBytes bs.length = bs

/-- R182, R112: SIZE and BLOCKSIZE are OUT_BYTES and RATE_BYTES of a CONFIG read; after reset 64 and 72. -/
def Obligations.SizeAndBlockSize : Prop :=
  (∀ k : Kse, (wordField k.configWord 24 16).toNat = k.outBytes.toNat ∧
    (wordField k.configWord 7 0).toNat = k.rateBytes.toNat) ∧
  (wordField Kse.reset.configWord 24 16).toNat = 64 ∧ (wordField Kse.reset.configWord 7 0).toNat = 72
end

