-- ==== Sys2Proof/Laws/Decode.lean ====
section
/-! SUPPORT. The fields of an encoded word, and how the write data passes through the bus decoder. -/

namespace Sys2Proof

theorem cmdOpc_commandWord : ∀ o l : BitVec 4, cmdOpc (commandWord o l) = o := by decide

theorem cmdLen_commandWord : ∀ o l : BitVec 4, cmdLen (commandWord o l) = l := by decide

theorem cmdRsv_commandWord : ∀ o l : BitVec 4, cmdRsv (commandWord o l) = 0 := by decide

/-- A word of RSV = 0 is the command word of its own fields. -/
theorem commandWord_fields {w : Word} (h : cmdRsv w = 0) : commandWord (cmdOpc w) (cmdLen w) = w := by
  have e : w = cmdRsv w ++ cmdLen w ++ cmdOpc w := by
    unfold cmdRsv cmdLen cmdOpc
    apply BitVec.eq_of_getLsbD_eq
    intro i hi
    simp only [BitVec.getLsbD_append, BitVec.getLsbD_extractLsb']
    by_cases h1 : i < 4
    · simp [h1]
    · by_cases h2 : i - 4 < 4
      · simp [h1, h2, show 4 + (i - 4) = i by omega]
      · simp [h1, h2, show 8 + (i - 4 - 4) = i by omega, show i - 4 - 4 < 24 by omega]
  rw [commandWord, ← h, ← e]

/-- A bus operation is the one of its own two fields. -/
theorem busOp_fields : ∀ op : BusOp, busOp (busWrites op) (busAddr op) = op := by decide +kernel

theorem busWrites_busOp : ∀ (b : Bool) (off : Offset), busWrites (busOp b off) = b := by decide +kernel

theorem busAddr_busOp : ∀ (b : Bool) (off : Offset), busAddr (busOp b off) = off := by decide +kernel

/-- The instruction with other write data; a read has none. -/
def withData (d : Word) : Instr → Instr
  | .wrId _ => .wrId d
  | .wrHwcfg _ => .wrHwcfg d
  | .wrConfig _ => .wrConfig d
  | .wrCmd _ => .wrCmd d
  | .wrStatus _ => .wrStatus d
  | .wrIrqEn _ => .wrIrqEn d
  | .wrDinLo _ => .wrDinLo d
  | .wrDinHi _ => .wrDinHi d
  | .wrPermCount _ => .wrPermCount d
  | .wrState w _ => .wrState w d
  | .wrDout w _ => .wrDout w d
  | i => i

/-- The bus decoder looks at the operation alone; the data is only carried. So a fact about all operations and one
data word is a fact about all data words. -/
theorem decodeBus_data (op : BusOp) (d : Word) : decodeBus op d = (decodeBus op 0).map (withData d) := by
  unfold decodeBus
  simp only [apply_ite (Except.map (withData d))]
  simp only [Except.map, withData]

end Sys2Proof
end

