-- ==== Sys2Proof/Laws/State.lean ====
section
/-! SUPPORT. One lemma per field per update of the state, so that no proof unfolds a record update. -/

namespace Sys2Proof.Machine

variable (k : Kse)

/-! ### setErr -/

@[simp] theorem Kse.setErr_lanes (e : ErrCode) : (k.setErr e).lanes = k.lanes := rfl
@[simp] theorem Kse.setErr_abuf (e : ErrCode) : (k.setErr e).abuf = k.abuf := rfl
@[simp] theorem Kse.setErr_rateBytes (e : ErrCode) : (k.setErr e).rateBytes = k.rateBytes := rfl
@[simp] theorem Kse.setErr_suffix (e : ErrCode) : (k.setErr e).suffix = k.suffix := rfl
@[simp] theorem Kse.setErr_outBytes (e : ErrCode) : (k.setErr e).outBytes = k.outBytes := rfl
@[simp] theorem Kse.setErr_busy (e : ErrCode) : (k.setErr e).busy = k.busy := rfl
@[simp] theorem Kse.setErr_done (e : ErrCode) : (k.setErr e).done = k.done := rfl
@[simp] theorem Kse.setErr_locked (e : ErrCode) : (k.setErr e).locked = k.locked := rfl
@[simp] theorem Kse.setErr_err (e : ErrCode) : (k.setErr e).err = e := rfl
@[simp] theorem Kse.setErr_doneIe (e : ErrCode) : (k.setErr e).doneIe = k.doneIe := rfl
@[simp] theorem Kse.setErr_errIe (e : ErrCode) : (k.setErr e).errIe = k.errIe := rfl
@[simp] theorem Kse.setErr_dinLo (e : ErrCode) : (k.setErr e).dinLo = k.dinLo := rfl
@[simp] theorem Kse.setErr_dinHi (e : ErrCode) : (k.setErr e).dinHi = k.dinHi := rfl
@[simp] theorem Kse.setErr_pend (e : ErrCode) : (k.setErr e).pend = k.pend := rfl
@[simp] theorem Kse.setErr_dout (e : ErrCode) : (k.setErr e).dout = k.dout := rfl
@[simp] theorem Kse.setErr_permCount (e : ErrCode) : (k.setErr e).permCount = k.permCount := rfl

/-! ### setConfig -/

@[simp] theorem Kse.setConfig_lanes (r u : Byte) (o : BitVec 9) : (k.setConfig r u o).lanes = k.lanes := rfl
@[simp] theorem Kse.setConfig_abuf (r u : Byte) (o : BitVec 9) : (k.setConfig r u o).abuf = k.abuf := rfl
@[simp] theorem Kse.setConfig_rateBytes (r u : Byte) (o : BitVec 9) : (k.setConfig r u o).rateBytes = r := rfl
@[simp] theorem Kse.setConfig_suffix (r u : Byte) (o : BitVec 9) : (k.setConfig r u o).suffix = u := rfl
@[simp] theorem Kse.setConfig_outBytes (r u : Byte) (o : BitVec 9) : (k.setConfig r u o).outBytes = o := rfl
@[simp] theorem Kse.setConfig_busy (r u : Byte) (o : BitVec 9) : (k.setConfig r u o).busy = k.busy := rfl
@[simp] theorem Kse.setConfig_done (r u : Byte) (o : BitVec 9) : (k.setConfig r u o).done = k.done := rfl
@[simp] theorem Kse.setConfig_locked (r u : Byte) (o : BitVec 9) : (k.setConfig r u o).locked = k.locked := rfl
@[simp] theorem Kse.setConfig_err (r u : Byte) (o : BitVec 9) : (k.setConfig r u o).err = k.err := rfl
@[simp] theorem Kse.setConfig_doneIe (r u : Byte) (o : BitVec 9) : (k.setConfig r u o).doneIe = k.doneIe := rfl
@[simp] theorem Kse.setConfig_errIe (r u : Byte) (o : BitVec 9) : (k.setConfig r u o).errIe = k.errIe := rfl
@[simp] theorem Kse.setConfig_dinLo (r u : Byte) (o : BitVec 9) : (k.setConfig r u o).dinLo = k.dinLo := rfl
@[simp] theorem Kse.setConfig_dinHi (r u : Byte) (o : BitVec 9) : (k.setConfig r u o).dinHi = k.dinHi := rfl
@[simp] theorem Kse.setConfig_pend (r u : Byte) (o : BitVec 9) : (k.setConfig r u o).pend = k.pend := rfl
@[simp] theorem Kse.setConfig_dout (r u : Byte) (o : BitVec 9) : (k.setConfig r u o).dout = k.dout := rfl
@[simp] theorem Kse.setConfig_permCount (r u : Byte) (o : BitVec 9) : (k.setConfig r u o).permCount = k.permCount := rfl

/-! ### setIrqEn -/

@[simp] theorem Kse.setIrqEn_lanes (a b : Bool) : (k.setIrqEn a b).lanes = k.lanes := rfl
@[simp] theorem Kse.setIrqEn_abuf (a b : Bool) : (k.setIrqEn a b).abuf = k.abuf := rfl
@[simp] theorem Kse.setIrqEn_rateBytes (a b : Bool) : (k.setIrqEn a b).rateBytes = k.rateBytes := rfl
@[simp] theorem Kse.setIrqEn_suffix (a b : Bool) : (k.setIrqEn a b).suffix = k.suffix := rfl
@[simp] theorem Kse.setIrqEn_outBytes (a b : Bool) : (k.setIrqEn a b).outBytes = k.outBytes := rfl
@[simp] theorem Kse.setIrqEn_busy (a b : Bool) : (k.setIrqEn a b).busy = k.busy := rfl
@[simp] theorem Kse.setIrqEn_done (a b : Bool) : (k.setIrqEn a b).done = k.done := rfl
@[simp] theorem Kse.setIrqEn_locked (a b : Bool) : (k.setIrqEn a b).locked = k.locked := rfl
@[simp] theorem Kse.setIrqEn_err (a b : Bool) : (k.setIrqEn a b).err = k.err := rfl
@[simp] theorem Kse.setIrqEn_doneIe (a b : Bool) : (k.setIrqEn a b).doneIe = a := rfl
@[simp] theorem Kse.setIrqEn_errIe (a b : Bool) : (k.setIrqEn a b).errIe = b := rfl
@[simp] theorem Kse.setIrqEn_dinLo (a b : Bool) : (k.setIrqEn a b).dinLo = k.dinLo := rfl
@[simp] theorem Kse.setIrqEn_dinHi (a b : Bool) : (k.setIrqEn a b).dinHi = k.dinHi := rfl
@[simp] theorem Kse.setIrqEn_pend (a b : Bool) : (k.setIrqEn a b).pend = k.pend := rfl
@[simp] theorem Kse.setIrqEn_dout (a b : Bool) : (k.setIrqEn a b).dout = k.dout := rfl
@[simp] theorem Kse.setIrqEn_permCount (a b : Bool) : (k.setIrqEn a b).permCount = k.permCount := rfl

/-! ### setDinLo -/

@[simp] theorem Kse.setDinLo_lanes (d : Word) : (k.setDinLo d).lanes = k.lanes := rfl
@[simp] theorem Kse.setDinLo_abuf (d : Word) : (k.setDinLo d).abuf = k.abuf := rfl
@[simp] theorem Kse.setDinLo_rateBytes (d : Word) : (k.setDinLo d).rateBytes = k.rateBytes := rfl
@[simp] theorem Kse.setDinLo_suffix (d : Word) : (k.setDinLo d).suffix = k.suffix := rfl
@[simp] theorem Kse.setDinLo_outBytes (d : Word) : (k.setDinLo d).outBytes = k.outBytes := rfl
@[simp] theorem Kse.setDinLo_busy (d : Word) : (k.setDinLo d).busy = k.busy := rfl
@[simp] theorem Kse.setDinLo_done (d : Word) : (k.setDinLo d).done = k.done := rfl
@[simp] theorem Kse.setDinLo_locked (d : Word) : (k.setDinLo d).locked = k.locked := rfl
@[simp] theorem Kse.setDinLo_err (d : Word) : (k.setDinLo d).err = k.err := rfl
@[simp] theorem Kse.setDinLo_doneIe (d : Word) : (k.setDinLo d).doneIe = k.doneIe := rfl
@[simp] theorem Kse.setDinLo_errIe (d : Word) : (k.setDinLo d).errIe = k.errIe := rfl
@[simp] theorem Kse.setDinLo_dinLo (d : Word) : (k.setDinLo d).dinLo = d := rfl
@[simp] theorem Kse.setDinLo_dinHi (d : Word) : (k.setDinLo d).dinHi = k.dinHi := rfl
@[simp] theorem Kse.setDinLo_pend (d : Word) : (k.setDinLo d).pend = k.pend := rfl
@[simp] theorem Kse.setDinLo_dout (d : Word) : (k.setDinLo d).dout = k.dout := rfl
@[simp] theorem Kse.setDinLo_permCount (d : Word) : (k.setDinLo d).permCount = k.permCount := rfl

/-! ### setDinHi -/

@[simp] theorem Kse.setDinHi_lanes (d : Word) : (k.setDinHi d).lanes = k.lanes := rfl
@[simp] theorem Kse.setDinHi_abuf (d : Word) : (k.setDinHi d).abuf = k.abuf := rfl
@[simp] theorem Kse.setDinHi_rateBytes (d : Word) : (k.setDinHi d).rateBytes = k.rateBytes := rfl
@[simp] theorem Kse.setDinHi_suffix (d : Word) : (k.setDinHi d).suffix = k.suffix := rfl
@[simp] theorem Kse.setDinHi_outBytes (d : Word) : (k.setDinHi d).outBytes = k.outBytes := rfl
@[simp] theorem Kse.setDinHi_busy (d : Word) : (k.setDinHi d).busy = k.busy := rfl
@[simp] theorem Kse.setDinHi_done (d : Word) : (k.setDinHi d).done = k.done := rfl
@[simp] theorem Kse.setDinHi_locked (d : Word) : (k.setDinHi d).locked = k.locked := rfl
@[simp] theorem Kse.setDinHi_err (d : Word) : (k.setDinHi d).err = k.err := rfl
@[simp] theorem Kse.setDinHi_doneIe (d : Word) : (k.setDinHi d).doneIe = k.doneIe := rfl
@[simp] theorem Kse.setDinHi_errIe (d : Word) : (k.setDinHi d).errIe = k.errIe := rfl
@[simp] theorem Kse.setDinHi_dinLo (d : Word) : (k.setDinHi d).dinLo = k.dinLo := rfl
@[simp] theorem Kse.setDinHi_dinHi (d : Word) : (k.setDinHi d).dinHi = d := rfl
@[simp] theorem Kse.setDinHi_pend (d : Word) : (k.setDinHi d).pend = k.pend := rfl
@[simp] theorem Kse.setDinHi_dout (d : Word) : (k.setDinHi d).dout = k.dout := rfl
@[simp] theorem Kse.setDinHi_permCount (d : Word) : (k.setDinHi d).permCount = k.permCount := rfl

/-! ### setLocked -/

@[simp] theorem Kse.setLocked_lanes (b : Bool) : (k.setLocked b).lanes = k.lanes := rfl
@[simp] theorem Kse.setLocked_abuf (b : Bool) : (k.setLocked b).abuf = k.abuf := rfl
@[simp] theorem Kse.setLocked_rateBytes (b : Bool) : (k.setLocked b).rateBytes = k.rateBytes := rfl
@[simp] theorem Kse.setLocked_suffix (b : Bool) : (k.setLocked b).suffix = k.suffix := rfl
@[simp] theorem Kse.setLocked_outBytes (b : Bool) : (k.setLocked b).outBytes = k.outBytes := rfl
@[simp] theorem Kse.setLocked_busy (b : Bool) : (k.setLocked b).busy = k.busy := rfl
@[simp] theorem Kse.setLocked_done (b : Bool) : (k.setLocked b).done = k.done := rfl
@[simp] theorem Kse.setLocked_locked (b : Bool) : (k.setLocked b).locked = b := rfl
@[simp] theorem Kse.setLocked_err (b : Bool) : (k.setLocked b).err = k.err := rfl
@[simp] theorem Kse.setLocked_doneIe (b : Bool) : (k.setLocked b).doneIe = k.doneIe := rfl
@[simp] theorem Kse.setLocked_errIe (b : Bool) : (k.setLocked b).errIe = k.errIe := rfl
@[simp] theorem Kse.setLocked_dinLo (b : Bool) : (k.setLocked b).dinLo = k.dinLo := rfl
@[simp] theorem Kse.setLocked_dinHi (b : Bool) : (k.setLocked b).dinHi = k.dinHi := rfl
@[simp] theorem Kse.setLocked_pend (b : Bool) : (k.setLocked b).pend = k.pend := rfl
@[simp] theorem Kse.setLocked_dout (b : Bool) : (k.setLocked b).dout = k.dout := rfl
@[simp] theorem Kse.setLocked_permCount (b : Bool) : (k.setLocked b).permCount = k.permCount := rfl

/-! ### setDone -/

@[simp] theorem Kse.setDone_lanes (b : Bool) : (k.setDone b).lanes = k.lanes := rfl
@[simp] theorem Kse.setDone_abuf (b : Bool) : (k.setDone b).abuf = k.abuf := rfl
@[simp] theorem Kse.setDone_rateBytes (b : Bool) : (k.setDone b).rateBytes = k.rateBytes := rfl
@[simp] theorem Kse.setDone_suffix (b : Bool) : (k.setDone b).suffix = k.suffix := rfl
@[simp] theorem Kse.setDone_outBytes (b : Bool) : (k.setDone b).outBytes = k.outBytes := rfl
@[simp] theorem Kse.setDone_busy (b : Bool) : (k.setDone b).busy = k.busy := rfl
@[simp] theorem Kse.setDone_done (b : Bool) : (k.setDone b).done = b := rfl
@[simp] theorem Kse.setDone_locked (b : Bool) : (k.setDone b).locked = k.locked := rfl
@[simp] theorem Kse.setDone_err (b : Bool) : (k.setDone b).err = k.err := rfl
@[simp] theorem Kse.setDone_doneIe (b : Bool) : (k.setDone b).doneIe = k.doneIe := rfl
@[simp] theorem Kse.setDone_errIe (b : Bool) : (k.setDone b).errIe = k.errIe := rfl
@[simp] theorem Kse.setDone_dinLo (b : Bool) : (k.setDone b).dinLo = k.dinLo := rfl
@[simp] theorem Kse.setDone_dinHi (b : Bool) : (k.setDone b).dinHi = k.dinHi := rfl
@[simp] theorem Kse.setDone_pend (b : Bool) : (k.setDone b).pend = k.pend := rfl
@[simp] theorem Kse.setDone_dout (b : Bool) : (k.setDone b).dout = k.dout := rfl
@[simp] theorem Kse.setDone_permCount (b : Bool) : (k.setDone b).permCount = k.permCount := rfl

/-! ### setDout -/

@[simp] theorem Kse.setDout_lanes (v : Vector Byte 256) : (k.setDout v).lanes = k.lanes := rfl
@[simp] theorem Kse.setDout_abuf (v : Vector Byte 256) : (k.setDout v).abuf = k.abuf := rfl
@[simp] theorem Kse.setDout_rateBytes (v : Vector Byte 256) : (k.setDout v).rateBytes = k.rateBytes := rfl
@[simp] theorem Kse.setDout_suffix (v : Vector Byte 256) : (k.setDout v).suffix = k.suffix := rfl
@[simp] theorem Kse.setDout_outBytes (v : Vector Byte 256) : (k.setDout v).outBytes = k.outBytes := rfl
@[simp] theorem Kse.setDout_busy (v : Vector Byte 256) : (k.setDout v).busy = k.busy := rfl
@[simp] theorem Kse.setDout_done (v : Vector Byte 256) : (k.setDout v).done = k.done := rfl
@[simp] theorem Kse.setDout_locked (v : Vector Byte 256) : (k.setDout v).locked = k.locked := rfl
@[simp] theorem Kse.setDout_err (v : Vector Byte 256) : (k.setDout v).err = k.err := rfl
@[simp] theorem Kse.setDout_doneIe (v : Vector Byte 256) : (k.setDout v).doneIe = k.doneIe := rfl
@[simp] theorem Kse.setDout_errIe (v : Vector Byte 256) : (k.setDout v).errIe = k.errIe := rfl
@[simp] theorem Kse.setDout_dinLo (v : Vector Byte 256) : (k.setDout v).dinLo = k.dinLo := rfl
@[simp] theorem Kse.setDout_dinHi (v : Vector Byte 256) : (k.setDout v).dinHi = k.dinHi := rfl
@[simp] theorem Kse.setDout_pend (v : Vector Byte 256) : (k.setDout v).pend = k.pend := rfl
@[simp] theorem Kse.setDout_dout (v : Vector Byte 256) : (k.setDout v).dout = v := rfl
@[simp] theorem Kse.setDout_permCount (v : Vector Byte 256) : (k.setDout v).permCount = k.permCount := rfl

/-! ### setSponge -/

@[simp] theorem Kse.setSponge_lanes (S : Lanes) (m : List Byte) (c : Word) : (k.setSponge S m c).lanes = S := rfl
@[simp] theorem Kse.setSponge_abuf (S : Lanes) (m : List Byte) (c : Word) : (k.setSponge S m c).abuf = m := rfl
@[simp] theorem Kse.setSponge_rateBytes (S : Lanes) (m : List Byte) (c : Word) : (k.setSponge S m c).rateBytes = k.rateBytes := rfl
@[simp] theorem Kse.setSponge_suffix (S : Lanes) (m : List Byte) (c : Word) : (k.setSponge S m c).suffix = k.suffix := rfl
@[simp] theorem Kse.setSponge_outBytes (S : Lanes) (m : List Byte) (c : Word) : (k.setSponge S m c).outBytes = k.outBytes := rfl
@[simp] theorem Kse.setSponge_busy (S : Lanes) (m : List Byte) (c : Word) : (k.setSponge S m c).busy = k.busy := rfl
@[simp] theorem Kse.setSponge_done (S : Lanes) (m : List Byte) (c : Word) : (k.setSponge S m c).done = k.done := rfl
@[simp] theorem Kse.setSponge_locked (S : Lanes) (m : List Byte) (c : Word) : (k.setSponge S m c).locked = k.locked := rfl
@[simp] theorem Kse.setSponge_err (S : Lanes) (m : List Byte) (c : Word) : (k.setSponge S m c).err = k.err := rfl
@[simp] theorem Kse.setSponge_doneIe (S : Lanes) (m : List Byte) (c : Word) : (k.setSponge S m c).doneIe = k.doneIe := rfl
@[simp] theorem Kse.setSponge_errIe (S : Lanes) (m : List Byte) (c : Word) : (k.setSponge S m c).errIe = k.errIe := rfl
@[simp] theorem Kse.setSponge_dinLo (S : Lanes) (m : List Byte) (c : Word) : (k.setSponge S m c).dinLo = k.dinLo := rfl
@[simp] theorem Kse.setSponge_dinHi (S : Lanes) (m : List Byte) (c : Word) : (k.setSponge S m c).dinHi = k.dinHi := rfl
@[simp] theorem Kse.setSponge_pend (S : Lanes) (m : List Byte) (c : Word) : (k.setSponge S m c).pend = k.pend := rfl
@[simp] theorem Kse.setSponge_dout (S : Lanes) (m : List Byte) (c : Word) : (k.setSponge S m c).dout = k.dout := rfl
@[simp] theorem Kse.setSponge_permCount (S : Lanes) (m : List Byte) (c : Word) : (k.setSponge S m c).permCount = c := rfl

/-! ### setPend -/

@[simp] theorem Kse.setPend_lanes (o : PendOp) (m : List Byte) : (k.setPend o m).lanes = k.lanes := rfl
@[simp] theorem Kse.setPend_abuf (o : PendOp) (m : List Byte) : (k.setPend o m).abuf = k.abuf := rfl
@[simp] theorem Kse.setPend_rateBytes (o : PendOp) (m : List Byte) : (k.setPend o m).rateBytes = k.rateBytes := rfl
@[simp] theorem Kse.setPend_suffix (o : PendOp) (m : List Byte) : (k.setPend o m).suffix = k.suffix := rfl
@[simp] theorem Kse.setPend_outBytes (o : PendOp) (m : List Byte) : (k.setPend o m).outBytes = k.outBytes := rfl
@[simp] theorem Kse.setPend_busy (o : PendOp) (m : List Byte) : (k.setPend o m).busy = true := rfl
@[simp] theorem Kse.setPend_done (o : PendOp) (m : List Byte) : (k.setPend o m).done = k.done := rfl
@[simp] theorem Kse.setPend_locked (o : PendOp) (m : List Byte) : (k.setPend o m).locked = k.locked := rfl
@[simp] theorem Kse.setPend_err (o : PendOp) (m : List Byte) : (k.setPend o m).err = k.err := rfl
@[simp] theorem Kse.setPend_doneIe (o : PendOp) (m : List Byte) : (k.setPend o m).doneIe = k.doneIe := rfl
@[simp] theorem Kse.setPend_errIe (o : PendOp) (m : List Byte) : (k.setPend o m).errIe = k.errIe := rfl
@[simp] theorem Kse.setPend_dinLo (o : PendOp) (m : List Byte) : (k.setPend o m).dinLo = k.dinLo := rfl
@[simp] theorem Kse.setPend_dinHi (o : PendOp) (m : List Byte) : (k.setPend o m).dinHi = k.dinHi := rfl
@[simp] theorem Kse.setPend_pend (o : PendOp) (m : List Byte) : (k.setPend o m).pend = some { op := o, bytes := m } := rfl
@[simp] theorem Kse.setPend_dout (o : PendOp) (m : List Byte) : (k.setPend o m).dout = k.dout := rfl
@[simp] theorem Kse.setPend_permCount (o : PendOp) (m : List Byte) : (k.setPend o m).permCount = k.permCount := rfl

/-! ### clearPend -/

@[simp] theorem Kse.clearPend_lanes : (k.clearPend).lanes = k.lanes := rfl
@[simp] theorem Kse.clearPend_abuf : (k.clearPend).abuf = k.abuf := rfl
@[simp] theorem Kse.clearPend_rateBytes : (k.clearPend).rateBytes = k.rateBytes := rfl
@[simp] theorem Kse.clearPend_suffix : (k.clearPend).suffix = k.suffix := rfl
@[simp] theorem Kse.clearPend_outBytes : (k.clearPend).outBytes = k.outBytes := rfl
@[simp] theorem Kse.clearPend_busy : (k.clearPend).busy = false := rfl
@[simp] theorem Kse.clearPend_done : (k.clearPend).done = k.done := rfl
@[simp] theorem Kse.clearPend_locked : (k.clearPend).locked = k.locked := rfl
@[simp] theorem Kse.clearPend_err : (k.clearPend).err = k.err := rfl
@[simp] theorem Kse.clearPend_doneIe : (k.clearPend).doneIe = k.doneIe := rfl
@[simp] theorem Kse.clearPend_errIe : (k.clearPend).errIe = k.errIe := rfl
@[simp] theorem Kse.clearPend_dinLo : (k.clearPend).dinLo = k.dinLo := rfl
@[simp] theorem Kse.clearPend_dinHi : (k.clearPend).dinHi = k.dinHi := rfl
@[simp] theorem Kse.clearPend_pend : (k.clearPend).pend = none := rfl
@[simp] theorem Kse.clearPend_dout : (k.clearPend).dout = k.dout := rfl
@[simp] theorem Kse.clearPend_permCount : (k.clearPend).permCount = k.permCount := rfl

/-! ### The answers of the port -/

variable (s : State)

@[simp] theorem busError_kse (w : Bool) : (busError w s).kse = s.kse := rfl
@[simp] theorem busError_rstN (w : Bool) : (busError w s).rstN = s.rstN := rfl
@[simp] theorem busError_host (w : Bool) : (busError w s).host = s.host := rfl
@[simp] theorem busError_turns (w : Bool) : (busError w s).turns = s.turns := rfl
@[simp] theorem busError_draws (w : Bool) : (busError w s).draws = s.draws := rfl
@[simp] theorem busError_read : (busError false s).response = .read 0 .error := rfl
@[simp] theorem busError_write : (busError true s).response = .write .error := rfl

/-! ### The steps that are no access -/

@[simp] theorem engineStep_kse : (engineStep s).kse = s.kse.engine := rfl
@[simp] theorem engineStep_rstN : (engineStep s).rstN = s.rstN := rfl
@[simp] theorem engineStep_response : (engineStep s).response = s.response := rfl
@[simp] theorem engineStep_host : (engineStep s).host = s.host := rfl
@[simp] theorem engineStep_turns : (engineStep s).turns = s.turns := rfl
@[simp] theorem engineStep_draws : (engineStep s).draws = s.draws := rfl

@[simp] theorem assertReset_kse : (assertReset s).kse = Kse.reset := rfl
@[simp] theorem assertReset_rstN : (assertReset s).rstN = false := rfl
@[simp] theorem assertReset_response : (assertReset s).response = .none := rfl
@[simp] theorem assertReset_host : (assertReset s).host = s.host := rfl
@[simp] theorem assertReset_turns : (assertReset s).turns = s.turns := rfl
@[simp] theorem assertReset_draws : (assertReset s).draws = s.draws := rfl

@[simp] theorem advanceHost_kse : (advanceHost s).kse = s.kse := rfl
@[simp] theorem advanceHost_rstN : (advanceHost s).rstN = s.rstN := rfl
@[simp] theorem advanceHost_response : (advanceHost s).response = s.response := rfl
@[simp] theorem advanceHost_host : (advanceHost s).host = s.host.advance := rfl
@[simp] theorem advanceHost_turns : (advanceHost s).turns = s.turns := rfl
@[simp] theorem advanceHost_draws : (advanceHost s).draws = s.draws := rfl

@[simp] theorem HostAgent.advance_prog (h : HostAgent) : h.advance.prog = h.prog := rfl
@[simp] theorem HostAgent.advance_next (h : HostAgent) : h.advance.next = h.next + 1 := rfl
@[simp] theorem HostAgent.advance_temps (h : HostAgent) : h.advance.temps = h.temps := rfl
@[simp] theorem HostAgent.advance_halted (h : HostAgent) : h.advance.halted = h.halted := rfl
@[simp] theorem HostAgent.setTemp_prog (h : HostAgent) (t : Nat) (v : Word) : (h.setTemp t v).prog = h.prog := rfl
@[simp] theorem HostAgent.setTemp_next (h : HostAgent) (t : Nat) (v : Word) : (h.setTemp t v).next = h.next := rfl
@[simp] theorem HostAgent.setTemp_temps (h : HostAgent) (t : Nat) (v : Word) :
    (h.setTemp t v).temps = Temps.set h.temps t v := rfl
@[simp] theorem HostAgent.setTemp_halted (h : HostAgent) (t : Nat) (v : Word) :
    (h.setTemp t v).halted = h.halted := rfl

/-! ### The block in the system -/

/-- The port sees the offset of a system address in the block (20_memory.md R63). -/
theorem portOffset_systemAddress (off : Offset) : portOffset (systemAddress off) = some off := by
  have h := off.isLt
  unfold portOffset systemAddress
  rw [if_pos (by omega), Nat.add_sub_cancel_left, BitVec.ofNat_toNat, BitVec.setWidth_eq]

/-- An address outside the block's 4 KiB reaches the port as nothing (20_memory.md R63). -/
theorem portOffset_outside {addr : Nat} (h : addr < Config.kseBase ∨ Config.kseBase + 4096 ≤ addr) :
    portOffset addr = none := by
  unfold portOffset
  rw [if_neg (by omega)]

end Sys2Proof.Machine
end

