-- ==== Sys2Proof/Laws/Exec.lean ====
section
/-! SUPPORT. What an access can do: one lemma per shared operation, and one equation for exec of every instruction. -/

namespace Sys2Proof.Machine

theorem recordErr_of_none {k : Kse} (h : k.err = .none) (e : ErrCode) : k.recordErr e = k.setErr e := if_pos h

theorem recordErr_of_ne {k : Kse} (h : k.err ≠ .none) (e : ErrCode) : k.recordErr e = k := if_neg h

/-- RecordErr writes ERR and nothing else, and only where it is NONE. -/
theorem recordErr_eq (k : Kse) (e : ErrCode) :
    k.recordErr e = k.setErr (if k.err = .none then e else k.err) := by
  unfold Kse.recordErr
  split
  · rfl
  · rfl

section RecordErrFields

variable (k : Kse) (e : ErrCode)

@[simp] theorem recordErr_lanes : (k.recordErr e).lanes = k.lanes := by rw [recordErr_eq]; rfl
@[simp] theorem recordErr_abuf : (k.recordErr e).abuf = k.abuf := by rw [recordErr_eq]; rfl
@[simp] theorem recordErr_rateBytes : (k.recordErr e).rateBytes = k.rateBytes := by rw [recordErr_eq]; rfl
@[simp] theorem recordErr_suffix : (k.recordErr e).suffix = k.suffix := by rw [recordErr_eq]; rfl
@[simp] theorem recordErr_outBytes : (k.recordErr e).outBytes = k.outBytes := by rw [recordErr_eq]; rfl
@[simp] theorem recordErr_busy : (k.recordErr e).busy = k.busy := by rw [recordErr_eq]; rfl
@[simp] theorem recordErr_done : (k.recordErr e).done = k.done := by rw [recordErr_eq]; rfl
@[simp] theorem recordErr_locked : (k.recordErr e).locked = k.locked := by rw [recordErr_eq]; rfl
@[simp] theorem recordErr_doneIe : (k.recordErr e).doneIe = k.doneIe := by rw [recordErr_eq]; rfl
@[simp] theorem recordErr_errIe : (k.recordErr e).errIe = k.errIe := by rw [recordErr_eq]; rfl
@[simp] theorem recordErr_dinLo : (k.recordErr e).dinLo = k.dinLo := by rw [recordErr_eq]; rfl
@[simp] theorem recordErr_dinHi : (k.recordErr e).dinHi = k.dinHi := by rw [recordErr_eq]; rfl
@[simp] theorem recordErr_pend : (k.recordErr e).pend = k.pend := by rw [recordErr_eq]; rfl
@[simp] theorem recordErr_dout : (k.recordErr e).dout = k.dout := by rw [recordErr_eq]; rfl
@[simp] theorem recordErr_permCount : (k.recordErr e).permCount = k.permCount := by rw [recordErr_eq]; rfl
@[simp] theorem recordErr_err : (k.recordErr e).err = if k.err = .none then e else k.err := by
  rw [recordErr_eq]; rfl

end RecordErrFields

/-- What a command's checks can end in: a recorded error with its cause, or the acceptance. -/
theorem submit_cases (k : Kse) (illegal sequenced : Bool) (accept : Kse → Kse) :
    (k.busy = true ∧ k.submit illegal sequenced accept = k.recordErr .busyErr) ∨
    (k.busy = false ∧ illegal = true ∧ k.submit illegal sequenced accept = k.recordErr .illegalCmd) ∨
    (k.busy = false ∧ illegal = false ∧ sequenced = true ∧ k.done = true ∧
      k.submit illegal sequenced accept = k.recordErr .sequence) ∨
    (k.busy = false ∧ illegal = false ∧ (sequenced = false ∨ k.done = false) ∧
      k.submit illegal sequenced accept = accept k) := by
  cases hb : k.busy <;> cases illegal <;> cases sequenced <;> cases hd : k.done <;> simp [Kse.submit, hb, hd]

/-- What a CONFIG write can end in. -/
theorem configWrite_cases (k : Kse) (d : Word) :
    (k.busy = true ∧ k.configWrite d = k.recordErr .busyErr) ∨
    (k.busy = false ∧ k.locked = true ∧ k.configWrite d = k.recordErr .cfgLocked) ∨
    (k.busy = false ∧ k.locked = false ∧
      configLegal (d.extractLsb' 0 8) (d.extractLsb' 8 8) (d.extractLsb' 16 9) = false ∧
      k.configWrite d = k.recordErr .cfgInvalid) ∨
    (k.busy = false ∧ k.locked = false ∧
      configLegal (d.extractLsb' 0 8) (d.extractLsb' 8 8) (d.extractLsb' 16 9) = true ∧
      k.configWrite d = k.setConfig (d.extractLsb' 0 8) (d.extractLsb' 8 8) (d.extractLsb' 16 9)) := by
  cases hb : k.busy <;> cases hl : k.locked <;>
    cases hc : configLegal (d.extractLsb' 0 8) (d.extractLsb' 8 8) (d.extractLsb' 16 9) <;>
    simp [Kse.configWrite, hb, hl, hc]

/-- What an accepted or refused CMD write does, whatever its word: an error is recorded, nothing changes (NOP), or
one command is accepted. -/
theorem commandWrite_cases (k : Kse) (d : Word) :
    (∃ e, k.commandWrite d = k.recordErr e) ∨
    (k.busy = false ∧
      (k.commandWrite d = k ∨ k.commandWrite d = k.acceptReset ∨ k.commandWrite d = k.acceptPermute ∨
        (k.done = false ∧ (cmdLen d).toNat ≤ 8 ∧
          (k.commandWrite d = k.acceptAbsorb (cmdLen d).toNat ∨
            k.commandWrite d = k.acceptFinalize (cmdLen d).toNat)))) := by
  unfold Kse.commandWrite
  split
  · exact .inl ⟨_, rfl⟩
  · rename_i hb
    have hb' : k.busy = false := by simpa using hb
    split
    · exact .inl ⟨_, rfl⟩
    · split
      · exact .inl ⟨_, rfl⟩
      · split
        · exact .inl ⟨_, rfl⟩
        · rename_i hlen
          split
          · exact .inl ⟨_, rfl⟩
          · split
            · exact .inl ⟨_, rfl⟩
            · rename_i hseq
              refine .inr ⟨hb', ?_⟩
              have hle (h : cmdOpc d = 0x2 ∨ cmdOpc d = 0x3) : (cmdLen d).toNat ≤ 8 := by
                have h' : ¬ 8 < cmdLen d := fun hl => hlen ⟨h, hl⟩
                have h'' := BitVec.not_lt.mp h'
                simpa [BitVec.le_def] using h''
              have hdone (h : cmdOpc d = 0x2 ∨ cmdOpc d = 0x3) : k.done = false := by
                cases hd : k.done
                · rfl
                · exact absurd ⟨h, hd⟩ hseq
              split
              · exact .inl rfl
              · split
                · exact .inr (.inl rfl)
                · split
                  · rename_i h2
                    exact .inr (.inr (.inr ⟨hdone (.inl h2), hle (.inl h2), .inl rfl⟩))
                  · split
                    · rename_i h3
                      exact .inr (.inr (.inr ⟨hdone (.inr h3), hle (.inr h3), .inr rfl⟩))
                    · exact .inr (.inr (.inl rfl))

/-- The effect of an instruction on the KSE: what every arm of exec does to the architectural state. -/
def Kse.effect (k : Kse) : Instr → Kse
  | .nop => k.submit false false Kse.acceptNop
  | .reset => k.submit false false Kse.acceptReset
  | .absorb n => k.submit (decide (8 < n.toNat)) true (·.acceptAbsorb n.toNat)
  | .finalize n => k.submit (decide (8 < n.toNat)) true (·.acceptFinalize n.toNat)
  | .permute => k.submit false false Kse.acceptPermute
  | .rdId | .rdHwcfg | .rdConfig | .rdCmd | .rdStatus | .rdIrqEn | .rdDinLo | .rdDinHi | .rdPermCount => k
  | .rdState _ | .rdDout _ => k
  | .wrId _ | .wrHwcfg _ | .wrPermCount _ | .wrState _ _ | .wrDout _ _ => k
  | .wrConfig d => k.configWrite d
  | .wrCmd d => k.commandWrite d
  | .wrStatus d => k.statusWrite d
  | .wrIrqEn d => k.setIrqEn (d.getLsbD 0) (d.getLsbD 1)
  | .wrDinLo d => k.setDinLo d
  | .wrDinHi d => k.setDinHi d

/-- Every instruction answers a next state: the KSE changed by `Kse.effect`, an answer at the port, and perhaps one
more value drawn; the agents and `rst_n` as before. -/
theorem exec_eq (i : Instr) (s : State) :
    ∃ r n, exec i s = .next { s with kse := s.kse.effect i, response := r, draws := n } ∧ r ≠ .none := by
  cases i with
  | rdStatus =>
    by_cases h : s.kse.busy = true
    · exact ⟨_, _, by simp only [exec, execRdStatus, h, if_true]; rfl, by simp⟩
    · exact ⟨_, _, by simp only [exec, execRdStatus, h]; rfl, by simp⟩
  | rdPermCount =>
    by_cases h : s.kse.busy = true
    · exact ⟨_, _, by simp only [exec, execRdPermCount, h, if_true]; rfl, by simp⟩
    · exact ⟨_, _, by simp only [exec, execRdPermCount, h]; rfl, by simp⟩
  | rdState w =>
    by_cases h : s.kse.busy = true ∧ w.toNat < 50
    · exact ⟨_, _, by rw [exec, execRdState, if_pos h]; rfl, by simp⟩
    · exact ⟨_, _, by rw [exec, execRdState, if_neg h]; rfl, by simp⟩
  | rdDout w =>
    by_cases h : s.kse.doutUnspecified = true
    · exact ⟨_, _, by rw [exec, execRdDout, if_pos h]; rfl, by simp⟩
    · exact ⟨_, _, by rw [exec, execRdDout, if_neg h]; rfl, by simp⟩
  | _ => exact ⟨_, _, rfl, by simp⟩

/-- An instruction's next state, by its parts. -/
theorem exec_next {i : Instr} {s t : State} (h : exec i s = .next t) :
    t.kse = s.kse.effect i ∧ t.rstN = s.rstN ∧ t.host = s.host ∧ t.turns = s.turns := by
  obtain ⟨r, n, he, -⟩ := exec_eq i s
  rw [he] at h
  cases h
  exact ⟨rfl, rfl, rfl, rfl⟩

/-- What an access can do to the KSE, whatever the instruction: nothing, an error recorded or cleared, CONFIG,
IRQ_EN or a DIN register written, or a command accepted. -/
theorem effect_cases (k : Kse) (i : Instr) :
    k.effect i = k ∨ (∃ e, k.effect i = k.recordErr e) ∨ k.effect i = k.clearErr ∨
    (k.busy = false ∧ k.locked = false ∧ ∃ r u o, configLegal r u o = true ∧ k.effect i = k.setConfig r u o) ∨
    (∃ a b, k.effect i = k.setIrqEn a b) ∨ (∃ d, k.effect i = k.setDinLo d) ∨ (∃ d, k.effect i = k.setDinHi d) ∨
    (k.busy = false ∧ k.effect i = k.acceptReset) ∨ (k.busy = false ∧ k.effect i = k.acceptPermute) ∨
    (k.busy = false ∧ k.done = false ∧ ∃ n ≤ 8, k.effect i = k.acceptAbsorb n ∨ k.effect i = k.acceptFinalize n) := by
  cases i with
  | nop =>
    rcases submit_cases k false false Kse.acceptNop with ⟨-, h⟩ | ⟨-, h, -⟩ | ⟨-, -, h, -⟩ | ⟨-, -, -, h⟩
    · exact .inr (.inl ⟨_, h⟩)
    · cases h
    · cases h
    · exact .inl h
  | reset =>
    rcases submit_cases k false false Kse.acceptReset with ⟨-, h⟩ | ⟨-, h, -⟩ | ⟨-, -, h, -⟩ | ⟨hb, -, -, h⟩
    · exact .inr (.inl ⟨_, h⟩)
    · cases h
    · cases h
    · exact .inr (.inr (.inr (.inr (.inr (.inr (.inr (.inl ⟨hb, h⟩)))))))
  | permute =>
    rcases submit_cases k false false Kse.acceptPermute with ⟨-, h⟩ | ⟨-, h, -⟩ | ⟨-, -, h, -⟩ | ⟨hb, -, -, h⟩
    · exact .inr (.inl ⟨_, h⟩)
    · cases h
    · cases h
    · exact .inr (.inr (.inr (.inr (.inr (.inr (.inr (.inr (.inl ⟨hb, h⟩))))))))
  | absorb n =>
    rcases submit_cases k (decide (8 < n.toNat)) true (·.acceptAbsorb n.toNat) with
      ⟨-, h⟩ | ⟨-, -, h⟩ | ⟨-, -, -, -, h⟩ | ⟨hb, hi, hd, h⟩
    · exact .inr (.inl ⟨_, h⟩)
    · exact .inr (.inl ⟨_, h⟩)
    · exact .inr (.inl ⟨_, h⟩)
    · have hn : n.toNat ≤ 8 := by simpa using hi
      have hd' : k.done = false := by simpa using hd
      exact .inr (.inr (.inr (.inr (.inr (.inr (.inr (.inr (.inr ⟨hb, hd', _, hn, .inl h⟩))))))))
  | finalize n =>
    rcases submit_cases k (decide (8 < n.toNat)) true (·.acceptFinalize n.toNat) with
      ⟨-, h⟩ | ⟨-, -, h⟩ | ⟨-, -, -, -, h⟩ | ⟨hb, hi, hd, h⟩
    · exact .inr (.inl ⟨_, h⟩)
    · exact .inr (.inl ⟨_, h⟩)
    · exact .inr (.inl ⟨_, h⟩)
    · have hn : n.toNat ≤ 8 := by simpa using hi
      have hd' : k.done = false := by simpa using hd
      exact .inr (.inr (.inr (.inr (.inr (.inr (.inr (.inr (.inr ⟨hb, hd', _, hn, .inr h⟩))))))))
  | wrConfig d =>
    rcases configWrite_cases k d with ⟨-, h⟩ | ⟨-, -, h⟩ | ⟨-, -, -, h⟩ | ⟨hb, hl, hc, h⟩
    · exact .inr (.inl ⟨_, h⟩)
    · exact .inr (.inl ⟨_, h⟩)
    · exact .inr (.inl ⟨_, h⟩)
    · exact .inr (.inr (.inr (.inl ⟨hb, hl, _, _, _, hc, h⟩)))
  | wrCmd d =>
    rcases commandWrite_cases k d with h | ⟨hb, h | h | h | ⟨hd, hn, h⟩⟩
    · exact .inr (.inl h)
    · exact .inl h
    · exact .inr (.inr (.inr (.inr (.inr (.inr (.inr (.inl ⟨hb, h⟩)))))))
    · exact .inr (.inr (.inr (.inr (.inr (.inr (.inr (.inr (.inl ⟨hb, h⟩))))))))
    · exact .inr (.inr (.inr (.inr (.inr (.inr (.inr (.inr (.inr ⟨hb, hd, _, hn, h⟩))))))))
  | wrStatus d =>
    by_cases h : d.getLsbD 31 = true
    · exact .inr (.inr (.inl (if_pos h)))
    · exact .inl (if_neg h)
  | wrIrqEn d => exact .inr (.inr (.inr (.inr (.inl ⟨_, _, rfl⟩))))
  | wrDinLo d => exact .inr (.inr (.inr (.inr (.inr (.inl ⟨_, rfl⟩)))))
  | wrDinHi d => exact .inr (.inr (.inr (.inr (.inr (.inr (.inl ⟨_, rfl⟩))))))
  | _ => exact .inl rfl

end Sys2Proof.Machine
end

