-- ==== Sys2Proof/Laws/Keccak.lean ====
section
/-! SUPPORT. The lanes of a built state, and extensionality over the lanes A[x,y]. -/

namespace Sys2Proof.Machine

theorem build_getElem (f : Nat → Nat → Lane) (a b : Nat) (ha : a < 5) (hb : b < 5) (h : a + 5 * b < 25) :
    (Lanes.build f)[a + 5 * b] = f a b := by
  interval_cases a <;> interval_cases b <;> rfl

/-- The lane (x, y) of the state built from `f`. -/
theorem build_at (f : Nat → Nat → Lane) (x y : Nat) : (Lanes.build f).at x y = f (x % 5) (y % 5) :=
  build_getElem f _ _ (Nat.mod_lt _ (by decide)) (Nat.mod_lt _ (by decide)) _

/-- A lane's indices are taken mod 5. -/
theorem at_mod (A : Lanes) (x y : Nat) : A.at (x % 5) (y % 5) = A.at x y := by
  simp only [Lanes.at, Nat.mod_mod]

/-- The lane S[i] is A[i mod 5, i div 5]. -/
theorem at_eq_getElem (A : Lanes) (i : Nat) (h : i < 25) : A.at (i % 5) (i / 5) = A[i] := by
  have hi : i % 5 % 5 + 5 * (i / 5 % 5) = i := by omega
  simp only [Lanes.at, hi]

/-- Two states with the same lanes A[x,y] are the same. -/
theorem lanes_ext {A B : Lanes} (h : ∀ x < 5, ∀ y < 5, A.at x y = B.at x y) : A = B := by
  apply Vector.ext
  intro i hi
  rw [← at_eq_getElem A i hi, ← at_eq_getElem B i hi]
  exact h _ (Nat.mod_lt _ (by decide)) _ (by omega)

theorem theta_at (A : Lanes) (x y : Nat) : (theta A).at x y = A.at x y ^^^ thetaD A (x % 5) := by
  rw [theta, build_at, at_mod]

theorem rho_at (A : Lanes) (x y : Nat) : (rho A).at x y = rot64 (A.at x y) (rhoOffset x y) := by
  rw [rho, build_at, at_mod, rhoOffset, rhoOffset, Nat.mod_mod, Nat.mod_mod]

theorem piStep_at (A : Lanes) (x y : Nat) : (piStep A).at x y = A.at (x + 3 * y) x := by
  have h : (x % 5 + 3 * (y % 5)) % 5 = (x + 3 * y) % 5 := by omega
  rw [piStep, build_at, ← at_mod A (x % 5 + 3 * (y % 5)), h, Nat.mod_mod, at_mod]

theorem chi_at (A : Lanes) (x y : Nat) :
    (chi A).at x y = A.at x y ^^^ (~~~ A.at (x + 1) y &&& A.at (x + 2) y) := by
  rw [chi, build_at]
  simp only [Lanes.at, Nat.mod_mod, Nat.mod_add_mod]

theorem iota_at_zero (ir : Nat) (A : Lanes) : (iota ir A).at 0 0 = A.at 0 0 ^^^ roundConstant ir := by
  simp [iota, Lanes.at]

theorem iota_at_other (ir : Nat) (A : Lanes) {x y : Nat} (h : x % 5 ≠ 0 ∨ y % 5 ≠ 0) :
    (iota ir A).at x y = A.at x y := by
  have hne : (0 : Nat) ≠ x % 5 + 5 * (y % 5) := by omega
  simp only [iota, Lanes.at]
  exact Vector.getElem_set_ne _ _ hne

end Sys2Proof.Machine
end

