-- ==== Sys2Proof/Laws/PerInstr.lean ====
section
/-! SUPPORT. Facts about every instruction as syntax, one lemma per constructor. -/

namespace Sys2Proof.Laws.TableRow

/-- A command word that has a row's bits. -/
def fitsCmd (p : PortWord) (fixed mask : Word) : Prop := ∃ w, p = .cmd w ∧ w &&& mask = fixed

/-- A bus operation that has a row's bits, whatever its write data. -/
def fitsBus (p : PortWord) (fixed mask : BusOp) : Prop := ∃ op d, p = .bus op d ∧ op &&& mask = fixed

/-- The word of an instruction has the bits of its row of the opcode table (30_encoding.md R101, R109). -/
def Statement : Instr → Prop
  | .nop => fitsCmd (encode .nop) 0x00000000 0xFFFFFFFF
  | .reset => fitsCmd (encode .reset) 0x00000001 0xFFFFFFFF
  | .absorb n => fitsCmd (encode (.absorb n)) 0x00000002 0xFFFFFF0F
  | .finalize n => fitsCmd (encode (.finalize n)) 0x00000003 0xFFFFFF0F
  | .permute => fitsCmd (encode .permute) 0x00000004 0xFFFFFFFF
  | .rdId => fitsBus (encode .rdId) 0x0000 0x1FFF
  | .rdHwcfg => fitsBus (encode .rdHwcfg) 0x0004 0x1FFF
  | .rdConfig => fitsBus (encode .rdConfig) 0x0008 0x1FFF
  | .rdCmd => fitsBus (encode .rdCmd) 0x000C 0x1FFF
  | .rdStatus => fitsBus (encode .rdStatus) 0x0010 0x1FFF
  | .rdIrqEn => fitsBus (encode .rdIrqEn) 0x0014 0x1FFF
  | .rdDinLo => fitsBus (encode .rdDinLo) 0x0018 0x1FFF
  | .rdDinHi => fitsBus (encode .rdDinHi) 0x001C 0x1FFF
  | .rdPermCount => fitsBus (encode .rdPermCount) 0x0020 0x1FFF
  | .rdState w => fitsBus (encode (.rdState w)) 0x0100 0x1F03
  | .rdDout w => fitsBus (encode (.rdDout w)) 0x0200 0x1F03
  | .wrId d => fitsBus (encode (.wrId d)) 0x1000 0x1FFF
  | .wrHwcfg d => fitsBus (encode (.wrHwcfg d)) 0x1004 0x1FFF
  | .wrConfig d => fitsBus (encode (.wrConfig d)) 0x1008 0x1FFF
  | .wrCmd d => fitsBus (encode (.wrCmd d)) 0x100C 0x1FFF
  | .wrStatus d => fitsBus (encode (.wrStatus d)) 0x1010 0x1FFF
  | .wrIrqEn d => fitsBus (encode (.wrIrqEn d)) 0x1014 0x1FFF
  | .wrDinLo d => fitsBus (encode (.wrDinLo d)) 0x1018 0x1FFF
  | .wrDinHi d => fitsBus (encode (.wrDinHi d)) 0x101C 0x1FFF
  | .wrPermCount d => fitsBus (encode (.wrPermCount d)) 0x1020 0x1FFF
  | .wrState w d => fitsBus (encode (.wrState w d)) 0x1100 0x1F03
  | .wrDout w d => fitsBus (encode (.wrDout w d)) 0x1200 0x1F03

theorem nop : Statement .nop := ⟨_, rfl, by decide⟩
theorem reset : Statement .reset := ⟨_, rfl, by decide⟩
theorem absorb (n : BitVec 4) : Statement (.absorb n) := ⟨_, rfl, by revert n; decide⟩
theorem finalize (n : BitVec 4) : Statement (.finalize n) := ⟨_, rfl, by revert n; decide⟩
theorem permute : Statement .permute := ⟨_, rfl, by decide⟩
theorem rdId : Statement .rdId := ⟨_, _, rfl, by decide⟩
theorem rdHwcfg : Statement .rdHwcfg := ⟨_, _, rfl, by decide⟩
theorem rdConfig : Statement .rdConfig := ⟨_, _, rfl, by decide⟩
theorem rdCmd : Statement .rdCmd := ⟨_, _, rfl, by decide⟩
theorem rdStatus : Statement .rdStatus := ⟨_, _, rfl, by decide⟩
theorem rdIrqEn : Statement .rdIrqEn := ⟨_, _, rfl, by decide⟩
theorem rdDinLo : Statement .rdDinLo := ⟨_, _, rfl, by decide⟩
theorem rdDinHi : Statement .rdDinHi := ⟨_, _, rfl, by decide⟩
theorem rdPermCount : Statement .rdPermCount := ⟨_, _, rfl, by decide⟩
theorem rdState (w : BitVec 6) : Statement (.rdState w) := ⟨_, _, rfl, by revert w; decide⟩
theorem rdDout (w : BitVec 6) : Statement (.rdDout w) := ⟨_, _, rfl, by revert w; decide⟩
theorem wrId (d : Word) : Statement (.wrId d) := ⟨_, _, rfl, by decide⟩
theorem wrHwcfg (d : Word) : Statement (.wrHwcfg d) := ⟨_, _, rfl, by decide⟩
theorem wrConfig (d : Word) : Statement (.wrConfig d) := ⟨_, _, rfl, by decide⟩
theorem wrCmd (d : Word) : Statement (.wrCmd d) := ⟨_, _, rfl, by decide⟩
theorem wrStatus (d : Word) : Statement (.wrStatus d) := ⟨_, _, rfl, by decide⟩
theorem wrIrqEn (d : Word) : Statement (.wrIrqEn d) := ⟨_, _, rfl, by decide⟩
theorem wrDinLo (d : Word) : Statement (.wrDinLo d) := ⟨_, _, rfl, by decide⟩
theorem wrDinHi (d : Word) : Statement (.wrDinHi d) := ⟨_, _, rfl, by decide⟩
theorem wrPermCount (d : Word) : Statement (.wrPermCount d) := ⟨_, _, rfl, by decide⟩
theorem wrState (w : BitVec 6) (d : Word) : Statement (.wrState w d) := ⟨_, _, rfl, by revert w; decide⟩
theorem wrDout (w : BitVec 6) (d : Word) : Statement (.wrDout w d) := ⟨_, _, rfl, by revert w; decide⟩

end Sys2Proof.Laws.TableRow
end

