-- ==== Sys2Proof/Laws/Sponge.lean ====
section
/-! SUPPORT. What the sponge operations and the completions change, and what they leave. -/

namespace Sys2Proof.Machine

/-! ## Everything the sponge does is one `setSponge` -/

/-- A KSE that differs from `k` in S, ABUF and PERM_COUNT only. -/
def Kse.SpongeOf (k k' : Kse) : Prop := ∃ S m c, k' = k.setSponge S m c

theorem Kse.SpongeOf.refl (k : Kse) : k.SpongeOf k := ⟨k.lanes, k.abuf, k.permCount, rfl⟩

theorem Kse.SpongeOf.trans {a b c : Kse} (h : a.SpongeOf b) (h' : b.SpongeOf c) : a.SpongeOf c := by
  obtain ⟨S, m, n, rfl⟩ := h
  obtain ⟨S', m', n', rfl⟩ := h'
  exact ⟨S', m', n', rfl⟩

theorem spongeOf_setSponge (k : Kse) (S : Lanes) (m : List Byte) (c : Word) : k.SpongeOf (k.setSponge S m c) :=
  ⟨S, m, c, rfl⟩

theorem spongeOf_permuteOnce (k : Kse) : k.SpongeOf k.permuteOnce := spongeOf_setSponge _ _ _ _

theorem spongeOf_absorbBlock (k : Kse) (B : List Byte) : k.SpongeOf (k.absorbBlock B) :=
  (spongeOf_setSponge _ _ _ _).trans (spongeOf_permuteOnce _)

theorem spongeOf_absorbByte (k : Kse) (b : Byte) : k.SpongeOf (k.absorbByte b) := by
  unfold Kse.absorbByte
  split
  · exact (spongeOf_absorbBlock _ _).trans (spongeOf_setSponge _ _ _ _)
  · exact spongeOf_setSponge _ _ _ _

theorem spongeOf_absorbBytes (bs : List Byte) (k : Kse) : k.SpongeOf (k.absorbBytes bs) := by
  induction bs generalizing k with
  | nil => exact Kse.SpongeOf.refl k
  | cons b bs ih => exact (spongeOf_absorbByte k b).trans (ih (k.absorbByte b))

theorem spongeOf_squeezeLoop (fuel : Nat) (out : List Byte) (k : Kse) : k.SpongeOf (squeezeLoop fuel out k).2 := by
  induction fuel generalizing out k with
  | zero => exact Kse.SpongeOf.refl k
  | succ fuel ih =>
    unfold squeezeLoop
    simp only
    split
    · exact Kse.SpongeOf.refl k
    · exact (spongeOf_permuteOnce k).trans (ih _ _)

theorem spongeOf_absorbPadded (k : Kse) (bs : List Byte) : k.SpongeOf (k.absorbPadded bs) :=
  ((spongeOf_absorbBytes bs k).trans (spongeOf_absorbBlock _ _)).trans (spongeOf_setSponge _ _ _ _)

theorem spongeOf_squeeze (k : Kse) : k.SpongeOf k.squeeze.2 := spongeOf_squeezeLoop _ _ _

/-! ## Bytes one at a time -/

theorem absorbBytes_nil (k : Kse) : k.absorbBytes [] = k := rfl

theorem absorbBytes_cons (k : Kse) (b : Byte) (bs : List Byte) :
    k.absorbBytes (b :: bs) = (k.absorbByte b).absorbBytes bs := rfl

theorem absorbBytes_append (k : Kse) (a b : List Byte) :
    k.absorbBytes (a ++ b) = (k.absorbBytes a).absorbBytes b := List.foldl_append

theorem absorbByte_of_room {k : Kse} (h : k.abuf.length + 1 ≠ k.rateBytes.toNat) (b : Byte) :
    k.absorbByte b = k.setSponge k.lanes (k.abuf ++ [b]) k.permCount := if_neg h

theorem absorbByte_of_full {k : Kse} (h : k.abuf.length + 1 = k.rateBytes.toNat) (b : Byte) :
    k.absorbByte b = k.setSponge (keccakF (xorFrom 0 k.lanes (k.abuf ++ [b]))) [] (k.permCount + 1) := if_pos h

@[simp] theorem absorbByte_rateBytes (k : Kse) (b : Byte) : (k.absorbByte b).rateBytes = k.rateBytes := by
  obtain ⟨S, m, c, h⟩ := spongeOf_absorbByte k b
  rw [h]; rfl

@[simp] theorem absorbBytes_rateBytes (k : Kse) (bs : List Byte) : (k.absorbBytes bs).rateBytes = k.rateBytes := by
  obtain ⟨S, m, c, h⟩ := spongeOf_absorbBytes bs k
  rw [h]; rfl

/-- ABUF never holds a full block after a byte. -/
theorem absorbByte_abuf_lt {k : Kse} (h : k.abuf.length < k.rateBytes.toNat) (b : Byte) :
    (k.absorbByte b).abuf.length < k.rateBytes.toNat := by
  by_cases hf : k.abuf.length + 1 = k.rateBytes.toNat
  · rw [absorbByte_of_full hf]
    simp only [Kse.setSponge_abuf, List.length_nil]
    omega
  · rw [absorbByte_of_room hf]
    simp only [Kse.setSponge_abuf, List.length_append, List.length_singleton]
    omega

theorem absorbBytes_abuf_lt (bs : List Byte) {k : Kse} (h : k.abuf.length < k.rateBytes.toNat) :
    (k.absorbBytes bs).abuf.length < k.rateBytes.toNat := by
  induction bs generalizing k with
  | nil => exact h
  | cons b bs ih =>
    have := @ih (k.absorbByte b) (by rw [absorbByte_rateBytes]; exact absorbByte_abuf_lt h b)
    rwa [absorbByte_rateBytes] at this

/-! ## Two KSEs with the same sponge and CONFIG absorb alike -/

/-- The state that absorbing and squeezing read and write, and the CONFIG they read (41_sponge.md R171, R185). -/
structure Kse.SameSponge (a b : Kse) : Prop where
  lanes : a.lanes = b.lanes
  abuf : a.abuf = b.abuf
  permCount : a.permCount = b.permCount
  rateBytes : a.rateBytes = b.rateBytes
  suffix : a.suffix = b.suffix
  outBytes : a.outBytes = b.outBytes

theorem sameSponge_refl (k : Kse) : k.SameSponge k := ⟨rfl, rfl, rfl, rfl, rfl, rfl⟩

theorem sameSponge_setSponge {a b : Kse} (h : a.SameSponge b) (S : Lanes) (m : List Byte) (c : Word) :
    (a.setSponge S m c).SameSponge (b.setSponge S m c) := ⟨rfl, rfl, rfl, h.rateBytes, h.suffix, h.outBytes⟩

theorem sameSponge_permuteOnce {a b : Kse} (h : a.SameSponge b) : a.permuteOnce.SameSponge b.permuteOnce := by
  unfold Kse.permuteOnce
  rw [h.lanes, h.abuf, h.permCount]
  exact sameSponge_setSponge h _ _ _

theorem sameSponge_absorbBlock {a b : Kse} (h : a.SameSponge b) (B : List Byte) :
    (a.absorbBlock B).SameSponge (b.absorbBlock B) := by
  unfold Kse.absorbBlock
  rw [h.lanes, h.abuf, h.permCount]
  exact sameSponge_permuteOnce (sameSponge_setSponge h _ _ _)

theorem sameSponge_absorbByte {a b : Kse} (h : a.SameSponge b) (x : Byte) :
    (a.absorbByte x).SameSponge (b.absorbByte x) := by
  by_cases hf : a.abuf.length + 1 = a.rateBytes.toNat
  · rw [absorbByte_of_full hf, absorbByte_of_full (by rw [← h.abuf, ← h.rateBytes]; exact hf), h.lanes, h.abuf,
      h.permCount]
    exact sameSponge_setSponge h _ _ _
  · rw [absorbByte_of_room hf, absorbByte_of_room (by rw [← h.abuf, ← h.rateBytes]; exact hf), h.lanes, h.abuf,
      h.permCount]
    exact sameSponge_setSponge h _ _ _

theorem sameSponge_absorbBytes (bs : List Byte) {a b : Kse} (h : a.SameSponge b) :
    (a.absorbBytes bs).SameSponge (b.absorbBytes bs) := by
  induction bs generalizing a b with
  | nil => exact h
  | cons x bs ih => exact ih (sameSponge_absorbByte h x)

theorem sameSponge_absorbPadded {a b : Kse} (h : a.SameSponge b) (bs : List Byte) :
    (a.absorbPadded bs).SameSponge (b.absorbPadded bs) := by
  have h₁ := sameSponge_absorbBytes bs h
  have h₂ := sameSponge_absorbBlock h₁ (pad (a.absorbBytes bs).abuf (a.absorbBytes bs).rateBytes.toNat (a.absorbBytes bs).suffix)
  unfold Kse.absorbPadded
  simp only
  rw [← h₁.abuf, ← h₁.rateBytes, ← h₁.suffix, h₂.lanes, h₂.permCount]
  exact sameSponge_setSponge h₂ _ _ _

theorem sameSponge_squeezeLoop (fuel : Nat) (out : List Byte) {a b : Kse} (h : a.SameSponge b) :
    (squeezeLoop fuel out a).1 = (squeezeLoop fuel out b).1 ∧
      (squeezeLoop fuel out a).2.SameSponge (squeezeLoop fuel out b).2 := by
  induction fuel generalizing out a b with
  | zero => exact ⟨rfl, h⟩
  | succ fuel ih =>
    unfold squeezeLoop
    simp only
    rw [h.lanes, h.rateBytes, h.outBytes]
    split
    · exact ⟨rfl, h⟩
    · exact ih _ (sameSponge_permuteOnce h)

theorem sameSponge_squeeze {a b : Kse} (h : a.SameSponge b) :
    a.squeeze.1 = b.squeeze.1 ∧ a.squeeze.2.SameSponge b.squeeze.2 := by
  unfold Kse.squeeze
  rw [h.outBytes]
  exact sameSponge_squeezeLoop _ _ h

/-! ## The engine -/

theorem engine_of_none {k : Kse} (h : k.pend = none) : k.engine = k := by unfold Kse.engine; rw [h]

theorem engine_of_some {k : Kse} {p : Pending} (h : k.pend = some p) : k.engine = k.complete p := by
  unfold Kse.engine; rw [h]

/-- What a completion leaves: CONFIG, ERR, IRQ_EN and DIN; nothing is pending after it. -/
theorem complete_frame (k : Kse) (p : Pending) :
    (k.complete p).pend = none ∧ (k.complete p).busy = false ∧ (k.complete p).err = k.err ∧
    (k.complete p).rateBytes = k.rateBytes ∧ (k.complete p).suffix = k.suffix ∧
    (k.complete p).outBytes = k.outBytes ∧ (k.complete p).doneIe = k.doneIe ∧ (k.complete p).errIe = k.errIe ∧
    (k.complete p).dinLo = k.dinLo ∧ (k.complete p).dinHi = k.dinHi := by
  unfold Kse.complete
  split
  · exact ⟨rfl, rfl, rfl, rfl, rfl, rfl, rfl, rfl, rfl, rfl⟩
  · obtain ⟨S, m, c, h⟩ := spongeOf_absorbBytes p.bytes k
    unfold Kse.completeAbsorb
    rw [h]
    exact ⟨rfl, rfl, rfl, rfl, rfl, rfl, rfl, rfl, rfl, rfl⟩
  · obtain ⟨S, m, c, h⟩ := (spongeOf_absorbPadded k p.bytes).trans (spongeOf_squeeze _)
    unfold Kse.completeFinalize
    simp only
    rw [h]
    exact ⟨rfl, rfl, rfl, rfl, rfl, rfl, rfl, rfl, rfl, rfl⟩
  · exact ⟨rfl, rfl, rfl, rfl, rfl, rfl, rfl, rfl, rfl, rfl⟩

end Sys2Proof.Machine
end

