-- ==== Sys2Proof/Laws/Temps.lean ====
section
/-! SUPPORT. The host's temporaries: a write reads back, leaves the others alone, and keeps the canonical form. -/

namespace Sys2Proof.Machine

/-- The first key of a canonical list, if any, is above `b`. -/
def Temps.above (b : Nat) : List (Nat × Word) → Prop
  | [] => True
  | (k, _) :: _ => b < k

theorem Temps.wf_cons (k : Nat) (v : Word) (l : List (Nat × Word)) :
    Temps.wf ((k, v) :: l) = true ↔ v ≠ 0 ∧ Temps.above k l ∧ Temps.wf l = true := by
  cases l with
  | nil => simp [Temps.wf, Temps.above]
  | cons p rest =>
    obtain ⟨k', v'⟩ := p
    simp only [Temps.wf, Temps.above, Bool.and_eq_true, decide_eq_true_eq, bne_iff_ne, ne_eq]
    exact ⟨fun ⟨⟨a, b⟩, c⟩ => ⟨b, a, c⟩, fun ⟨b, a, c⟩ => ⟨⟨a, b⟩, c⟩⟩

theorem Temps.above_trans {a b : Nat} (h : a < b) {l : List (Nat × Word)} (hl : Temps.above b l) :
    Temps.above a l := by
  cases l with
  | nil => trivial
  | cons p rest => exact Nat.lt_trans h hl

theorem Temps.set_above {b t : Nat} {v : Word} {l : List (Nat × Word)} (ht : b < t) (hl : Temps.above b l)
    (hw : Temps.wf l = true) : Temps.above b (Temps.set l t v) := by
  cases l with
  | nil =>
    unfold Temps.set
    split
    · trivial
    · exact ht
  | cons p rest =>
    obtain ⟨k, u⟩ := p
    have hkr := ((Temps.wf_cons k u rest).mp hw).2.1
    unfold Temps.set
    split
    · split
      · exact hl
      · exact ht
    · split
      · split
        · exact Temps.above_trans hl hkr
        · exact ht
      · exact hl

/-- Every write keeps the canonical form. -/
theorem Temps.set_wf (l : List (Nat × Word)) (t : Nat) (v : Word) (hw : Temps.wf l = true) :
    Temps.wf (Temps.set l t v) = true := by
  induction l with
  | nil =>
    unfold Temps.set
    split
    · rfl
    · rename_i h
      exact (Temps.wf_cons t v []).mpr ⟨h, trivial, rfl⟩
  | cons p rest ih =>
    obtain ⟨k, u⟩ := p
    obtain ⟨hu, hkr, hr⟩ := (Temps.wf_cons k u rest).mp hw
    unfold Temps.set
    split
    · rename_i hlt
      split
      · exact hw
      · rename_i hv
        exact (Temps.wf_cons t v _).mpr ⟨hv, hlt, hw⟩
    · rename_i hnlt
      split
      · rename_i he
        split
        · exact hr
        · rename_i hv
          exact (Temps.wf_cons t v _).mpr ⟨hv, he ▸ hkr, hr⟩
      · rename_i hne
        exact (Temps.wf_cons k u _).mpr ⟨hu, Temps.set_above (by omega) hkr hr, ih hr⟩

theorem Temps.get_of_above {b : Nat} {l : List (Nat × Word)} (hl : Temps.above b l) (hw : Temps.wf l = true)
    {t : Nat} (ht : t ≤ b) : Temps.get l t = 0 := by
  induction l generalizing b with
  | nil => rfl
  | cons p rest ih =>
    obtain ⟨k, u⟩ := p
    obtain ⟨-, hkr, hr⟩ := (Temps.wf_cons k u rest).mp hw
    have hb : b < k := hl
    have hk : k ≠ t := by omega
    simp only [Temps.get, hk, if_false]
    exact ih hkr hr (by omega)

/-- A written temporary reads back. -/
theorem Temps.get_set_same (l : List (Nat × Word)) (t : Nat) (v : Word) (hw : Temps.wf l = true) :
    Temps.get (Temps.set l t v) t = v := by
  induction l with
  | nil =>
    unfold Temps.set
    split
    · rename_i h; exact h.symm
    · simp [Temps.get]
  | cons p rest ih =>
    obtain ⟨k, u⟩ := p
    obtain ⟨-, hkr, hr⟩ := (Temps.wf_cons k u rest).mp hw
    unfold Temps.set
    split
    · rename_i hlt
      split
      · rename_i hv
        have hk : k ≠ t := by omega
        simp only [Temps.get, hk, if_false]
        rw [hv]
        exact Temps.get_of_above hkr hr (by omega)
      · simp [Temps.get]
    · split
      · rename_i he
        split
        · rename_i hv
          rw [hv]
          exact Temps.get_of_above hkr hr (by omega)
        · simp [Temps.get]
      · rename_i hne
        have hk : k ≠ t := by omega
        simp only [Temps.get, hk, if_false]
        exact ih hr

/-- A write leaves every other temporary alone. -/
theorem Temps.get_set_other (l : List (Nat × Word)) (t u : Nat) (v : Word) (hne : t ≠ u) :
    Temps.get (Temps.set l t v) u = Temps.get l u := by
  induction l with
  | nil =>
    unfold Temps.set
    split
    · rfl
    · simp [Temps.get, hne]
  | cons p rest ih =>
    obtain ⟨k, w⟩ := p
    unfold Temps.set
    split
    · split
      · rfl
      · simp [Temps.get, hne]
    · split
      · rename_i he
        split
        · simp [Temps.get, ← he, hne]
        · simp [Temps.get, ← he, hne]
      · simp only [Temps.get]
        split
        · rfl
        · exact ih

end Sys2Proof.Machine
end

