-- ==== Sys2Proof/Laws/Step.lean ====
section
/-! SUPPORT. What one step can do, said once: an engine completion, a reset, an access of one instruction, or a step
of the host alone. -/

namespace Sys2Proof.Machine

/-! ## The shared pieces -/

theorem thenNext_next {o : Host.Outcome State Fault Refusal} {f : State → State} {t : State}
    (h : thenNext o f = .next t) : ∃ u, o = .next u ∧ t = f u := by
  cases o with
  | next u => exact ⟨u, rfl, by cases h; rfl⟩
  | fault r => cases h
  | refused r => cases h

/-- Latching a read's data writes one temporary and nothing else. -/
theorem latch_cases (dest : Option Nat) (s : State) :
    latch dest s = s ∨ ∃ t v, latch dest s = { s with host := s.host.setTemp t v } := by
  unfold latch
  split
  · exact .inr ⟨_, _, rfl⟩
  · exact .inl rfl
  · exact .inl rfl
  · exact .inl rfl

@[simp] theorem latch_kse (dest : Option Nat) (s : State) : (latch dest s).kse = s.kse := by
  rcases latch_cases dest s with h | ⟨t, v, h⟩ <;> rw [h]

@[simp] theorem latch_rstN (dest : Option Nat) (s : State) : (latch dest s).rstN = s.rstN := by
  rcases latch_cases dest s with h | ⟨t, v, h⟩ <;> rw [h]

@[simp] theorem latch_turns (dest : Option Nat) (s : State) : (latch dest s).turns = s.turns := by
  rcases latch_cases dest s with h | ⟨t, v, h⟩ <;> rw [h]

@[simp] theorem latch_draws (dest : Option Nat) (s : State) : (latch dest s).draws = s.draws := by
  rcases latch_cases dest s with h | ⟨t, v, h⟩ <;> rw [h]

theorem latch_temps_wf (dest : Option Nat) (s : State) (hw : Temps.wf s.host.temps = true) :
    Temps.wf (latch dest s).host.temps = true := by
  rcases latch_cases dest s with h | ⟨t, v, h⟩
  · rw [h]; exact hw
  · rw [h]; exact Temps.set_wf _ _ _ hw

/-- An access that goes on is made with `rst_n` = 1; it has the effect of one instruction, or none (a bus error). -/
theorem access_next {p : PortWord} {s t : State} (h : access p s = .next t) :
    s.rstN = true ∧ t.rstN = s.rstN ∧ t.host = s.host ∧ t.turns = s.turns ∧
      (t.kse = s.kse ∨ ∃ i, t.kse = s.kse.effect i) := by
  unfold access at h
  split at h
  · rename_i hr
    refine ⟨hr, ?_⟩
    split at h
    · rename_i i _
      obtain ⟨hk, hr', hh, ht⟩ := exec_next h
      exact ⟨hr', hh, ht, .inr ⟨i, hk⟩⟩
    · unfold rejectedWord at h
      split at h
      · rename_i w _
        cases h
        exact ⟨rfl, rfl, rfl, .inr ⟨.wrCmd w, rfl⟩⟩
      · cases h
        exact ⟨rfl, rfl, rfl, .inl rfl⟩
  · cases h

theorem branch_temps {h h' : HostAgent} {l : Nat} (hb : h.branch l = .ok h') : h'.temps = h.temps := by
  unfold HostAgent.branch at hb
  split at hb
  · cases hb; rfl
  · cases hb

/-- A host statement without an access keeps the canonical form of the temporaries. -/
theorem runLocal_temps_wf {h h' : HostAgent} {st : HostStmt} (hr : h.runLocal st = .ok h')
    (hw : Temps.wf h.temps = true) : Temps.wf h'.temps = true := by
  cases st with
  | wr off d => cases hr; exact hw
  | rd off t => cases hr; exact hw
  | cmd w => cases hr; exact hw
  | label l => cases hr; exact hw
  | bnz t mask l =>
    simp only [HostAgent.runLocal] at hr
    split at hr
    · rw [branch_temps hr]; exact hw
    · cases hr; exact hw
  | bz t mask l =>
    simp only [HostAgent.runLocal] at hr
    split at hr
    · rw [branch_temps hr]; exact hw
    · cases hr; exact hw
  | jmp l =>
    simp only [HostAgent.runLocal] at hr
    rw [branch_temps hr]; exact hw
  | field t c hi lo => cases hr; exact Temps.set_wf _ _ _ hw
  | halt => cases hr; exact hw

/-- What a host step that goes on does. -/
theorem hostStep_next {s t : State} (h : hostStep s = .next t) :
    t.rstN = s.rstN ∧ t.turns = s.turns ∧
      (Temps.wf s.host.temps = true → Temps.wf t.host.temps = true) ∧
      (t.kse = s.kse ∨ s.rstN = true ∧ ∃ i, t.kse = s.kse.effect i) := by
  unfold hostStep at h
  split at h
  · cases h
    exact ⟨rfl, rfl, id, .inl rfl⟩
  · split at h
    · obtain ⟨u, hu, rfl⟩ := thenNext_next h
      obtain ⟨hr, hr', hh, ht, hk⟩ := access_next hu
      refine ⟨by simpa using hr', by simpa using ht, fun hw => latch_temps_wf _ _ ?_, ?_⟩
      · rw [hh]; exact hw
      · rw [latch_kse]
        rcases hk with hk | ⟨i, hk⟩
        · exact .inl hk
        · exact .inr ⟨hr, i, hk⟩
    · unfold localStep at h
      split at h
      · rename_i h' hl
        cases h
        exact ⟨rfl, rfl, fun hw => runLocal_temps_wf hl hw, .inl rfl⟩
      · cases h

/-! ## One step -/

theorem step_of_cons {s : State} {u : Turn} {rest : List Turn} (h : s.turns = u :: rest) :
    step s = runTurn u { s with turns := rest } := by
  unfold step nextTurn
  rw [h]

theorem step_of_nil {s : State} (h : s.turns = []) :
    step s = runTurn (if s.kse.pend.isSome then .engine else .host) s := by
  unfold step nextTurn
  rw [h]

/-- The turn that is run, and the state it is run in: only `turns` is shortened. -/
theorem nextTurn_snd (s : State) : (nextTurn s).2 = { s with turns := s.turns.tail } := by
  unfold nextTurn
  split
  · rename_i h; rw [h]; rfl
  · rename_i h; rw [h]; cases s; simp_all

/-- What a step that goes on can have been: the engine's, hardware reset, the effect of one instruction, or nothing
on the KSE. `turns` is shortened by one; the temporaries keep their canonical form. -/
theorem step_cases {s t : State} (h : step s = .next t) :
    t.turns = s.turns.tail ∧ (Temps.wf s.host.temps = true → Temps.wf t.host.temps = true) ∧
    ((t.kse = s.kse.engine ∧ t.rstN = s.rstN) ∨ t.kse = Kse.reset ∨ (t.kse = s.kse ∧ t.rstN = s.rstN) ∨
      (s.rstN = true ∧ t.rstN = true ∧ ∃ i, t.kse = s.kse.effect i)) := by
  unfold step at h
  rw [nextTurn_snd] at h
  cases hT : (nextTurn s).1 with
  | host =>
    rw [hT] at h
    obtain ⟨hr, ht, hw, hk⟩ := hostStep_next h
    refine ⟨ht, hw, ?_⟩
    rcases hk with hk | ⟨hs, i, hk⟩
    · exact .inr (.inr (.inl ⟨hk, hr⟩))
    · exact .inr (.inr (.inr ⟨hs, hr.trans hs, i, hk⟩))
  | engine =>
    rw [hT] at h
    cases h
    exact ⟨rfl, id, .inl ⟨rfl, rfl⟩⟩
  | rstLow =>
    rw [hT] at h
    cases h
    exact ⟨rfl, id, .inr (.inl rfl)⟩
  | rstHigh =>
    rw [hT] at h
    simp only [runTurn, releaseReset] at h
    split at h
    · cases h
      exact ⟨rfl, id, .inr (.inr (.inl ⟨rfl, rfl⟩))⟩
    · cases h
      exact ⟨rfl, id, .inr (.inl rfl)⟩

end Sys2Proof.Machine
end

