-- ==== Sys2Proof/Tests/Slice0.lean ====
section
/-! SUPPORT. The model's own tests, with results from 95_test_vectors.md (the vector's id stands in the comment) or
written out from the encoding tables; and a state for every statement that has hypotheses. -/

namespace Sys2Proof.Tests

open Sys2Proof.Machine

/-! ## Helpers -/

/-- A machine after reset with a given KSE. -/
def stateOf (k : Kse) : State := { State.reset with kse := k }

/-- A machine after reset whose host stands before one statement, and whose turn it is. -/
def hostAt (st : HostStmt) (k : Kse) : State :=
  { stateOf k with turns := [.host], host := { State.reset.host with prog := [st] } }

def outcomeState : Host.Outcome State Fault Refusal → Option State
  | .next t => some t
  | .fault _ => none
  | .refused _ => none

/-- The KSE after one instruction. -/
def kseAfter (i : Instr) (k : Kse) : Option Kse := (outcomeState (exec i (stateOf k))).map (·.kse)

/-- The port's answer to one instruction. -/
def answer (i : Instr) (k : Kse) : Option Response := (outcomeState (exec i (stateOf k))).map (·.response)

/-- STATUS after one instruction; ABUF_COUNT as with BUSY = 0. -/
def statusAfter (i : Instr) (k : Kse) : Option Word := (kseAfter i k).map fun k' => k'.statusWord k'.abufCount

/-- After ABSORB 3 of "abc". -/
def absorbed3 : Kse := { Kse.reset with abuf := [0x61, 0x62, 0x63], locked := true }

/-- After a digest. -/
def digested : Kse := { Kse.reset with done := true, locked := true }

/-- A pending ABSORB 8 on 71 buffered bytes. -/
def absorbing : Kse :=
  { Kse.reset with
    abuf := List.replicate 71 0, locked := true, busy := true,
    pend := some { op := .absorb, bytes := [1, 2, 3, 4, 5, 6, 7, 8] } }

/-- A pending FINALIZE 3. -/
def finalizing : Kse :=
  { Kse.reset with
    locked := true, busy := true, pend := some { op := .finalize, bytes := [0x61, 0x62, 0x63] } }

/-- A pending RESET after a digest. -/
def resetting : Kse := { digested with busy := true, pend := some { op := .reset, bytes := [] } }

/-- After ABSORB 0. -/
def begun : Kse := { Kse.reset with locked := true }

/-- A recorded error. -/
def erred : Kse := { Kse.reset with err := .illegalCmd }

/-! ## WellFormed -/

theorem test_absorb_9_ill_formed :
    WellFormed (.absorb 9) = false ∧ (decode (encode (.absorb 9))).toOption = none := by decide

theorem test_finalize_15_ill_formed :
    WellFormed (.finalize 15) = false ∧ (decode (encode (.finalize 15))).toOption = none := by decide

/-! ## Decoding, from the tables of R101 and R109 -/

theorem test_decode_commands :
    (decode (.cmd 0b00000000000000000000000000000000)).toOption = some .nop ∧
    (decode (.cmd 0b00000000000000000000000000000001)).toOption = some .reset ∧
    (decode (.cmd 0b00000000000000000000000001010010)).toOption = some (.absorb 5) ∧
    (decode (.cmd 0b00000000000000000000000001110011)).toOption = some (.finalize 7) ∧
    (decode (.cmd 0b00000000000000000000000000000100)).toOption = some .permute := by decide

theorem test_decode_reads :
    (decode (.bus 0b0000000000000 0)).toOption = some .rdId ∧
    (decode (.bus 0b0000000000100 0)).toOption = some .rdHwcfg ∧
    (decode (.bus 0b0000000001000 0)).toOption = some .rdConfig ∧
    (decode (.bus 0b0000000001100 0)).toOption = some .rdCmd ∧
    (decode (.bus 0b0000000010000 0)).toOption = some .rdStatus ∧
    (decode (.bus 0b0000000010100 0)).toOption = some .rdIrqEn ∧
    (decode (.bus 0b0000000011000 0)).toOption = some .rdDinLo ∧
    (decode (.bus 0b0000000011100 0)).toOption = some .rdDinHi ∧
    (decode (.bus 0b0000000100000 0)).toOption = some .rdPermCount ∧
    (decode (.bus 0b0000110100100 0)).toOption = some (.rdState 0b101001) ∧
    (decode (.bus 0b0001001101100 0)).toOption = some (.rdDout 0b011011) := by decide

theorem test_decode_writes :
    (decode (.bus 0b1000000000000 1)).toOption = some (.wrId 1) ∧
    (decode (.bus 0b1000000000100 2)).toOption = some (.wrHwcfg 2) ∧
    (decode (.bus 0b1000000001000 3)).toOption = some (.wrConfig 3) ∧
    (decode (.bus 0b1000000001100 4)).toOption = some (.wrCmd 4) ∧
    (decode (.bus 0b1000000010000 5)).toOption = some (.wrStatus 5) ∧
    (decode (.bus 0b1000000010100 6)).toOption = some (.wrIrqEn 6) ∧
    (decode (.bus 0b1000000011000 7)).toOption = some (.wrDinLo 7) ∧
    (decode (.bus 0b1000000011100 8)).toOption = some (.wrDinHi 8) ∧
    (decode (.bus 0b1000000100000 9)).toOption = some (.wrPermCount 9) ∧
    (decode (.bus 0b1000110100100 10)).toOption = some (.wrState 0b101001 10) ∧
    (decode (.bus 0b1001001101100 11)).toOption = some (.wrDout 0b011011 11) := by decide

/-- V-E1 to V-E7: the illegal command words. -/
theorem test_decode_illegal_commands :
    ∀ w ∈ [0x00000005, 0x0000000F, 0x00000010, 0x00000011, 0x00000014, 0x00000092, 0x00000093, 0x00000100],
      (decode (.cmd (BitVec.ofNat 32 w))).toOption = none := by decide

theorem test_decode_table_word :
    decodeTableWord 32 0x82 = some (.absorb 8) ∧ decodeTableWord 16 0x01C4 = some (.rdState 49) ∧
    decodeTableWord 13 0x1008 = some (.wrConfig 0) ∧ decodeTableWord 48 0x006882001008 = some (.wrConfig 0x00688200) ∧
    decodeTableWord 16 0x2000 = none := by decide

/-! ## Commands -/

/-- V-S23. -/
theorem test_nop : kseAfter .nop Kse.reset = some Kse.reset := rfl

/-- V-S17's status layout: ABUF_COUNT 3, LOCKED. -/
theorem test_absorb_abc :
    (kseAfter (.absorb 3) { Kse.reset with dinLo := 0x00636261 }).map (·.engine.abuf) = some [0x61, 0x62, 0x63] ∧
    absorbed3.statusWord absorbed3.abufCount = 0x00000304 := by decide

/-- V-E8: BUSY_ERR, BUSY, LOCKED. -/
theorem test_absorb_busy :
    (kseAfter (.absorb 8) { finalizing with pend := some { op := .absorb, bytes := [] } }).map (·.statusWord 0) =
      some 0x00020005 := by decide

/-- V-E19 and V-S19: SEQUENCE after a digest. -/
theorem test_sequence :
    statusAfter (.absorb 0) digested = some 0x00030006 ∧ statusAfter (.finalize 0) digested = some 0x00030006 := by
  decide

/-- V-S18: the byte staged at acceptance is the one latched. -/
theorem test_finalize_latches :
    ((kseAfter (.finalize 1) { Kse.reset with dinLo := 0x11 }).map fun k => (k.setDinLo 0x22).pend) =
      some (some { op := .finalize, bytes := [0x11] }) := by decide

/-- V-P12: PERMUTE from reset. -/
theorem test_permute_zero :
    ((kseAfter .permute Kse.reset).map fun k =>
      let k' := k.engine
      [stateWord k'.lanes 0, stateWord k'.lanes 1, stateWord k'.lanes 48, stateWord k'.lanes 49,
        stateWord k'.lanes 50, k'.permCount, k'.statusWord k'.abufCount]) =
      some [0x40E1DDE7, 0xF1258F79, 0x5CECA249, 0xEAF1FF7B, 0x00000000, 1, 0x00000004] := by decide +kernel

/-- V-S1: DOUT of the empty message, its first and its last word, and the zero fill. -/
theorem test_finalize_empty :
    ((kseAfter (.finalize 0) Kse.reset).map fun k =>
      let k' := k.engine
      [doutWord k'.dout 0, doutWord k'.dout 15, doutWord k'.dout 16, k'.permCount, k'.statusWord k'.abufCount]) =
      some [0xCC739FA6, 0x26CD1D28, 0, 1, 0x00000006] := by decide +kernel

/-- V-S22, V-E28: RESET after a digest; ERR is cleared at acceptance, CONFIG and IRQ_EN stay. -/
theorem test_reset_after_digest :
    ((kseAfter .reset { digested with err := .sequence, doneIe := true, permCount := 2 }).map fun k =>
      (k.err, k.done, k.engine)) = some (.none, true, { Kse.reset with doneIe := true }) := rfl

/-! ## Bus reads -/

/-- V-E30, V-E31, V-E27. -/
theorem test_identification_reads :
    answer .rdId Kse.reset = some (.read 0x4B454343 .okay) ∧
    hwcfgWord .k1 = 0x0100C801 ∧ hwcfgWord .k24 = 0x0100C818 ∧
    answer .rdConfig Kse.reset = some (.read 0x00400648 .okay) ∧
    answer .rdCmd digested = some (.read 0 .okay) := by decide

theorem test_din_and_irq_en_reads :
    answer .rdDinLo { Kse.reset with dinLo := 5, dinHi := 6 } = some (.read 5 .okay) ∧
    answer .rdDinHi { Kse.reset with dinLo := 5, dinHi := 6 } = some (.read 6 .okay) ∧
    answer .rdIrqEn { Kse.reset with errIe := true } = some (.read 2 .okay) := by decide

/-- V-S20's word 6: bytes 24 .. 27 = 73 b4 6f df. -/
theorem test_dout_read :
    answer (.rdDout 6) { Kse.reset with dout := doutOf (List.replicate 24 0 ++ [0x73, 0xb4, 0x6f, 0xdf]) } =
      some (.read 0xDF6FB473 .okay) := by decide

theorem test_state_read :
    answer (.rdState 49) { Kse.reset with lanes := Kse.reset.lanes.set 24 0xEAF1FF7B5CECA249 } =
      some (.read 0xEAF1FF7B .okay) ∧ answer (.rdState 50) absorbing = some (.read 0 .okay) := by decide

/-- R72: reads that stay exact while BUSY = 1. -/
theorem test_busy_reads :
    answer .rdConfig absorbing = some (.read 0x00400648 .okay) ∧
    answer (.rdDout 0) absorbing = some (.read 0 .okay) ∧
    (outcomeState (exec .rdPermCount (stateOf absorbing))).map (·.draws) = some 1 := by decide

/-! ## Bus writes -/

/-- V-E11 to V-E16: CFG_INVALID. -/
theorem test_config_invalid :
    ∀ d ∈ [0x004000C8, 0x00400600, 0x004006C9, 0x00408648, 0x01010648, 0x00000648],
      statusAfter (.wrConfig (BitVec.ofNat 32 d)) Kse.reset = some 0x00050000 := by decide

/-- V-E17, V-E18. -/
theorem test_config_valid :
    (kseAfter (.wrConfig 0x01000648) Kse.reset).map (·.configWord) = some 0x01000648 ∧
    (kseAfter (.wrConfig 0xFE400648) Kse.reset).map (·.configWord) = some 0x00400648 := by decide

/-- V-E9 and V-E10: BUSY_ERR comes before CFG_LOCKED. -/
theorem test_config_busy_then_locked :
    (kseAfter (.wrConfig 0x00200688) absorbing).map (·.err) = some .busyErr ∧
    (kseAfter (.wrConfig 0x00200688) digested).map (·.err) = some .cfgLocked := by decide

/-- V-E1, V-E20: an illegal command; the first error stays. -/
theorem test_wr_cmd :
    statusAfter (.wrCmd 0x00000005) Kse.reset = some 0x00010000 ∧
    (kseAfter (.wrCmd 0x00000002) { digested with err := .illegalCmd }).map (·.err) = some .illegalCmd := by decide

/-- V-E21, V-E22. -/
theorem test_wr_status :
    kseAfter (.wrStatus 0x80000000) erred = some Kse.reset ∧ kseAfter (.wrStatus 0x7FFFFFFF) erred = some erred :=
  ⟨rfl, rfl⟩

/-- V-E29, V-E28: irq follows IRQ_EN. -/
theorem test_wr_irq_en :
    (kseAfter (.wrIrqEn 2) erred).map (·.irq) = some true ∧
    (kseAfter (.wrIrqEn 1) erred).map (·.irq) = some false ∧
    (kseAfter (.wrIrqEn 0xFFFFFFFD) digested).map (·.irq) = some true := by decide

theorem test_wr_din :
    (kseAfter (.wrDinLo 0x00636261) absorbing).map (·.dinLo) = some 0x00636261 ∧
    (kseAfter (.wrDinHi 0x08070605) Kse.reset).map (·.stagedBytes 8) = some [0, 0, 0, 0, 5, 6, 7, 8] := by decide

/-- V-E26. -/
theorem test_ignored_writes :
    kseAfter (.wrId 7) absorbed3 = some absorbed3 ∧ kseAfter (.wrHwcfg 7) absorbed3 = some absorbed3 ∧
    kseAfter (.wrPermCount 7) absorbed3 = some absorbed3 ∧ kseAfter (.wrState 0 7) absorbed3 = some absorbed3 ∧
    kseAfter (.wrDout 0 7) absorbed3 = some absorbed3 := ⟨rfl, rfl, rfl, rfl, rfl⟩

/-! ## Keccak -/

/-- V-P1. -/
theorem test_rot64 : rot64 0x8000000000000001 1 = 3 ∧ rot64 0x8000000000000001 63 = 0xC000000000000000 := by decide

/-- V-P2. -/
theorem test_theta :
    laneRows (theta (Lanes.build fun x y => if x = 0 ∧ y = 0 then 1 else 0)) =
      [1, 1, 0, 0, 2] :: List.replicate 4 [0, 1, 0, 0, 2] := by decide

/-- V-P3: S[2] and S[22]. -/
theorem test_rho :
    let r := rho (Lanes.build fun x y => BitVec.ofNat 64 (x + 5 * y + 1))
    r.at 2 0 = 0xC000000000000000 ∧ r.at 2 4 = 0xE000000000000002 := by decide

/-- V-P4. -/
theorem test_pi :
    laneRows (piStep (Lanes.build fun x y => BitVec.ofNat 64 (x + 5 * y))) =
      [[0x00, 0x06, 0x0C, 0x12, 0x18],
       [0x03, 0x09, 0x0A, 0x10, 0x16],
       [0x01, 0x07, 0x0D, 0x13, 0x14],
       [0x04, 0x05, 0x0B, 0x11, 0x17],
       [0x02, 0x08, 0x0E, 0x0F, 0x15]] := by decide

/-- V-P5, the second row. -/
theorem test_chi :
    ((chi (Lanes.build fun x y => if x = 2 ∧ y = 0 then 0xFFFFFFFFFFFFFFFF else 0)).toList.take 5) =
      [0xFFFFFFFFFFFFFFFF, 0, 0xFFFFFFFFFFFFFFFF, 0, 0] := by decide

/-- V-P6, V-P7. -/
theorem test_iota_and_round :
    (iota 23 (Vector.replicate 25 0)).at 0 0 = 0x8000000080008008 ∧
    rnd (Vector.replicate 25 0) 0 = (Vector.replicate 25 0).set 0 1 := by decide +kernel

/-! ## Sponge -/

/-- V-S16. -/
theorem test_pad :
    pad [0x61, 0x62, 0x63] 72 0x06 = [0x61, 0x62, 0x63, 0x06] ++ List.replicate 67 0 ++ [0x80] ∧
    (pad (List.replicate 71 0) 72 0x06)[71]? = some 0x86 := by decide

/-- V-S16: the padded block in the zero state. -/
theorem test_pad_in_state :
    let S := xorFrom 0 (Vector.replicate 25 0) (pad [0x61, 0x62, 0x63] 72 0x06)
    S[0] = 0x0000000006636261 ∧ S[8] = 0x8000000000000000 ∧ S[9] = 0 := by decide +kernel

/-! ## Steps -/

/-- V-E23, V-E24 (P5's %bad and %mis): data 0, err = 1, and the temporary receives 0. -/
theorem test_step_bus_error :
    (outcomeState (step (hostAt (.rd 0x024 3) Kse.reset))).map (fun t => (t.response, t.kse, t.host.temp 3)) =
      some (.read 0 .error, Kse.reset, 0) ∧
    (outcomeState (step (hostAt (.wr 0x00D 5) Kse.reset))).map (fun t => (t.response, t.kse)) =
      some (.write .error, Kse.reset) := ⟨rfl, rfl⟩

/-- A read's data reaches its temporary, and the host moves on. -/
theorem test_step_read :
    (outcomeState (step (hostAt (.rd 0x008 7) Kse.reset))).map (fun t => (t.host.temp 7, t.host.next)) =
      some (0x00400648, 1) := by decide

/-- An illegal command word at the port (V-E1). -/
theorem test_step_illegal_command :
    (outcomeState (step (hostAt (.cmd 0x00000005) Kse.reset))).map (·.kse) = some erred := rfl

theorem test_step_placed_word :
    (outcomeState (step (State.reset.withFetchWord 32 0x00000082))).map (·.kse.pend.map (·.bytes.length)) =
      some (some 8) ∧
    (outcomeState (step (State.reset.withFetchWord 13 0x0008))).map (·.host.temp 0) = some 0x00400648 := by decide

/-- P5's pseudo-instructions: the words of STAGE, WRITE and WAIT. -/
theorem test_pseudo_instructions :
    writeStmts [0x61, 0x62, 0x63] 0 9 =
      [.wr 0x018 0x00636261, .wr 0x01C 0, .cmd 0x00000032, .label 0, .rd 0x010 9, .bnz 9 1 0] ∧
    sumStmts [] 8 0 9 20 =
      [.wr 0x018 0, .wr 0x01C 0, .cmd 0x00000003, .label 0, .rd 0x010 9, .bnz 9 1 0, .rd 0x200 20, .rd 0x204 21] := by
  decide

/-! ## A state for every statement that has hypotheses

Each clause of a statement has its own witness, at a boundary of its range where it has one. -/

theorem absorbing_inv : (stateOf absorbing).Inv := by
  refine ⟨⟨?_, ?_, ?_, ?_, ?_, ?_⟩, ?_, rfl⟩ <;>
    simp [stateOf, absorbing, Kse.reset, State.reset, Kse.ConfigLegal, Kse.PendLegal]

theorem finalizing_inv : (stateOf finalizing).Inv := by
  refine ⟨⟨?_, ?_, ?_, ?_, ?_, ?_⟩, ?_, rfl⟩ <;>
    simp [stateOf, finalizing, Kse.reset, State.reset, Kse.ConfigLegal, Kse.PendLegal]

theorem resetting_inv : (stateOf resetting).Inv := by
  refine ⟨⟨?_, ?_, ?_, ?_, ?_, ?_⟩, ?_, rfl⟩ <;>
    simp [stateOf, resetting, digested, Kse.reset, State.reset, Kse.ConfigLegal, Kse.PendLegal]

theorem absorbed3_inv : (stateOf absorbed3).Inv := by
  refine ⟨⟨?_, ?_, ?_, ?_, ?_, ?_⟩, ?_, rfl⟩ <;>
    simp [stateOf, absorbed3, Kse.reset, State.reset, Kse.ConfigLegal]

theorem witness_DecodeOfEncodeIsIdentity :
    WellFormed (.absorb 8) = true ∧ WellFormed (.absorb 0) = true ∧ WellFormed (.finalize 8) = true ∧
    WellFormed (.finalize 0) = true ∧ WellFormed (.wrState 63 0xFFFFFFFF) = true := by decide

theorem witness_EncodeOfDecodeIsTheWord :
    (decode (.cmd 0x00000083)).toOption = some (.finalize 8) ∧
    (decode (.bus 0x01FC 0xFFFFFFFF)).toOption = some (.rdState 63) ∧
    (decode (.bus 0x12FC 0xFFFFFFFF)).toOption = some (.wrDout 63 0xFFFFFFFF) := by decide

theorem witness_IllegalCommandWords :
    Kse.reset.busy = false ∧
    (∀ w ∈ [0x00000100, 0x00000005, 0x0000000F, 0x00000010, 0x000000F4, 0x00000092, 0x000000F3],
      (decodeCommand (BitVec.ofNat 32 w)).toOption = none) ∧
    ∀ w ∈ [0x00000000, 0x00000001, 0x00000082, 0x00000083, 0x00000004],
      (decodeCommand (BitVec.ofNat 32 w)).toOption.isSome = true := by decide

theorem witness_MisalignedAndUnmappedAccess :
    (stateOf Kse.reset).rstN = true ∧
    (∀ a ∈ [0x001, 0x003, 0x021, 0xFFF, 0x024, 0x0FC, 0x300, 0xFFC],
      (decode (.bus (busOp false (BitVec.ofNat 12 a)) 0)).toOption = none) ∧
    ∀ a ∈ [0x000, 0x020, 0x100, 0x1FC, 0x200, 0x2FC],
      (decode (.bus (busOp false (BitVec.ofNat 12 a)) 0)).toOption.isSome = true := by decide

theorem witness_ReadsChangeNoState :
    isBusRead .rdStatus = true ∧ isBusRead (.rdState 63) = true ∧ (stateOf Kse.reset).kse.busy = false ∧
    (stateOf absorbing).kse.busy = true := by decide

theorem witness_StatusReadLayout :
    (stateOf absorbed3).kse.busy = false ∧ (stateOf absorbing).kse.busy = true := by decide

theorem witness_PermCountRead :
    (stateOf absorbed3).kse.busy = false ∧ (stateOf absorbing).kse.busy = true := by decide

theorem witness_StateWindowRead :
    (0 < 25 ∧ 24 < 25) ∧ (stateOf absorbed3).kse.busy = false ∧ (stateOf absorbing).kse.busy = true ∧
    50 ≤ (50 : BitVec 6).toNat ∧ 50 ≤ (63 : BitVec 6).toNat ∧ (0 : BitVec 6).toNat < 50 ∧
    (49 : BitVec 6).toNat < 50 := by decide

theorem witness_DoutWindowRead :
    (finalizing.busy = true ∧ ∃ p, finalizing.pend = some p ∧ (p.op = .finalize ∨ p.op = .reset)) ∧
    (resetting.busy = true ∧ ∃ p, resetting.pend = some p ∧ (p.op = .finalize ∨ p.op = .reset)) ∧
    ¬ (absorbing.busy = true ∧ ∃ p, absorbing.pend = some p ∧ (p.op = .finalize ∨ p.op = .reset)) ∧
    ¬ (digested.busy = true ∧ ∃ p, digested.pend = some p ∧ (p.op = .finalize ∨ p.op = .reset)) ∧ 3 < 4 := by
  refine ⟨⟨rfl, _, rfl, .inl rfl⟩, ⟨rfl, _, rfl, .inr rfl⟩, ?_, ?_, by decide⟩
  · rintro ⟨-, p, hp, h⟩
    cases hp
    rcases h with h | h <;> cases h
  · rintro ⟨h, -⟩
    cases h

theorem witness_ConfigWriteEffect :
    absorbing.busy = true ∧ (digested.busy = false ∧ digested.locked = true) ∧
    (Kse.reset.busy = false ∧ Kse.reset.locked = false) ∧
    configLegal 0 0x06 64 = false ∧ configLegal 201 0x06 64 = false ∧ configLegal 72 0 64 = false ∧
    configLegal 72 0x80 64 = false ∧ configLegal 72 0x06 0 = false ∧ configLegal 72 0x06 257 = false ∧
    configLegal 1 0x01 1 = true ∧ configLegal 200 0x7F 256 = true := by decide

theorem witness_StatusWriteEffect :
    (0x80000000 : Word).getLsbD 31 = true ∧ (0x7FFFFFFF : Word).getLsbD 31 = false := by decide

theorem witness_WrCmdActsAsItsCommand :
    (decodeCommand 0x00000082).toOption = some (.absorb 8) ∧ (decodeCommand 0x00000092).toOption = none ∧
    absorbing.busy = true ∧ Kse.reset.busy = false := by decide

theorem witness_CmdWriteAcceptsALegalWord :
    absorbed3.busy = false ∧ absorbed3.done = false ∧ (0 : BitVec 4).toNat ≤ 8 ∧ (8 : BitVec 4).toNat ≤ 8 := by decide

theorem witness_NopChangesNothing : digested.busy = false ∧ digested.done = true ∧ digested.locked = true := by decide

theorem witness_PermuteAcceptedAndCompleted : digested.busy = false ∧ Kse.reset.busy = false := by decide

theorem witness_ResetAcceptedAndCompleted :
    digested.busy = false ∧ resetting.pend = some { op := .reset, bytes := [] } := by decide

theorem witness_AbsorbAndFinalizeAccepted :
    absorbed3.busy = false ∧ absorbed3.done = false ∧ (0 : BitVec 4).toNat ≤ 8 ∧ (8 : BitVec 4).toNat ≤ 8 := by decide

theorem witness_AbsorbCompletionIsBlockwise :
    (stateOf absorbing).kse.Inv ∧
    (stateOf absorbing).kse.pend = some { op := .absorb, bytes := [1, 2, 3, 4, 5, 6, 7, 8] } :=
  ⟨absorbing_inv.kse, rfl⟩

theorem witness_FinalizeCompletionDigest :
    (stateOf finalizing).kse.Inv ∧
    (stateOf finalizing).kse.pend = some { op := .finalize, bytes := [0x61, 0x62, 0x63] } :=
  ⟨finalizing_inv.kse, rfl⟩

theorem witness_FinalizeIsAbsorbThenFinalize :
    (8 : BitVec 4).toNat ≤ 8 ∧ absorbed3.busy = false ∧ absorbed3.done = false := by decide

theorem witness_CommandRefusals :
    Kse.reset.err = .none ∧ erred.err ≠ .none ∧
    (isCommand .nop = true ∧ isCommand (.wrCmd 0) = true ∧ absorbing.busy = true) ∧
    (Kse.reset.busy = false ∧ 8 < (9 : BitVec 4).toNat ∧ 8 < (15 : BitVec 4).toNat) ∧
    (digested.busy = false ∧ digested.done = true ∧ (0 : BitVec 4).toNat ≤ 8 ∧ (8 : BitVec 4).toNat ≤ 8) := by decide

theorem witness_CommandFrame : isCommand .permute = true ∧ ∃ t, exec .permute (stateOf digested) = .next t :=
  ⟨rfl, _, rfl⟩

theorem witness_HostAccessesLeaveTheSponge :
    (∀ d, Instr.permute ≠ .wrConfig d) ∧ (∀ d, Instr.permute ≠ .wrIrqEn d) ∧ (∀ d, Instr.permute ≠ .wrDinLo d) ∧
    (∀ d, Instr.permute ≠ .wrDinHi d) := by
  refine ⟨?_, ?_, ?_, ?_⟩ <;> intro d h <;> cases h

theorem witness_ErrIsSticky :
    (stateOf erred).kse.err ≠ .none ∧ (∃ t, exec (.wrStatus 0x80000000) (stateOf erred) = .next t ∧ t.kse.err = .none) ∧
    (∃ t, exec .reset (stateOf erred) = .next t ∧ t.kse.err = .none) ∧
    ∃ t, exec (.absorb 9) (stateOf erred) = .next t ∧ t.kse.err = .illegalCmd :=
  ⟨by decide, ⟨_, rfl, rfl⟩, ⟨_, rfl, rfl⟩, ⟨_, rfl, rfl⟩⟩

theorem witness_EngineFrame : (stateOf Kse.reset).kse.pend = none ∧ (stateOf resetting).kse.pend ≠ none := by decide

theorem witness_PendingCommandIsUnaffected :
    (stateOf finalizing).kse.busy = true ∧ (stateOf finalizing).kse.pend ≠ none := by decide

theorem witness_DoneAndLockedTransitions :
    (∃ s t, s.Inv ∧ step s = .next t ∧ s.kse.done = false ∧ t.kse.done = true) ∧
    (∃ s t, s.Inv ∧ step s = .next t ∧ s.kse.done = true ∧ t.kse.done = false) ∧
    (∃ s t, s.Inv ∧ step s = .next t ∧ s.kse.locked = false ∧ t.kse.locked = true) ∧
    (∃ s t, s.Inv ∧ step s = .next t ∧ s.kse.locked = true ∧ t.kse.locked = false) ∧
    ∃ s t, s.Inv ∧ step s = .next t ∧ s.kse.locked = true ∧ t.kse = Kse.reset := by
  refine ⟨⟨stateOf finalizing, _, finalizing_inv, rfl, rfl, rfl⟩, ⟨stateOf resetting, _, resetting_inv, rfl, rfl, rfl⟩,
    ⟨hostAt (.cmd 0x00000004) Kse.reset, _, ?_, rfl, rfl, rfl⟩,
    ⟨stateOf resetting, _, resetting_inv, rfl, rfl, rfl⟩,
    ⟨{ stateOf absorbed3 with turns := [.rstLow] }, _, ⟨absorbed3_inv.kse, absorbed3_inv.held, rfl⟩, rfl, rfl, rfl⟩⟩
  refine ⟨⟨?_, ?_, ?_, ?_, ?_, ?_⟩, ?_, rfl⟩ <;>
    simp [hostAt, stateOf, Kse.reset, State.reset, Kse.ConfigLegal, Kse.Fresh]

theorem witness_HardwareReset :
    (∃ s t, s.rstN = false ∧ s.kse = Kse.reset ∧ step s = .next t) ∧
    (∃ s t, s.Inv ∧ s.kse.pend ≠ none ∧ step s = .next t ∧ t.kse.pend = s.kse.pend) ∧
    (∃ s t, s.Inv ∧ s.kse.pend ≠ none ∧ step s = .next t ∧ t.kse = s.kse.engine) ∧
    ∃ s t, s.Inv ∧ s.kse.pend ≠ none ∧ step s = .next t ∧ t.kse = Kse.reset := by
  refine ⟨⟨{ stateOf Kse.reset with rstN := false }, _, rfl, rfl, rfl⟩,
    ⟨{ stateOf finalizing with turns := [.host] }, _, ⟨finalizing_inv.kse, finalizing_inv.held, rfl⟩, by decide, rfl, rfl⟩,
    ⟨stateOf finalizing, _, finalizing_inv, by decide, rfl, rfl⟩,
    ⟨{ stateOf finalizing with turns := [.rstLow] }, _, ⟨finalizing_inv.kse, finalizing_inv.held, rfl⟩, by decide, rfl, rfl⟩⟩

theorem witness_AccessDuringResetIsRefused :
    let s := { hostAt (.wr 0x008 1) Kse.reset with rstN := false }
    s.rstN = false ∧ s.host.current = some (.wr 0x008 1) ∧
    (HostStmt.wr 0x008 1).portWord = some (.bus (busOp true 0x008) 1) := by decide

theorem witness_EveryStepKeepsTheInvariant :
    (∃ t, (stateOf finalizing).Inv ∧ step (stateOf finalizing) = .next t) ∧
    ∃ t, (stateOf resetting).Inv ∧ step (stateOf resetting) = .next t :=
  ⟨⟨_, finalizing_inv, rfl⟩, ⟨_, resetting_inv, rfl⟩⟩

theorem witness_InvariantGivesTheFiveFacts :
    (stateOf absorbed3).Inv ∧ (stateOf absorbed3).kse.busy = false ∧ (stateOf resetting).Inv ∧
    (stateOf resetting).kse.done = true ∧
    (∀ p, (stateOf resetting).kse.pend = some p → p.op ≠ .absorb ∧ p.op ≠ .finalize) := by
  refine ⟨absorbed3_inv, rfl, resetting_inv, rfl, fun p hp => ?_⟩
  cases hp
  decide

theorem witness_StepRunsTheDecodedInstruction :
    (let s := hostAt (.cmd 0x00000004) Kse.reset;
      s.turns.head? = some .host ∧ s.host.current = some (.cmd 0x00000004) ∧
      (HostStmt.cmd 0x00000004).portWord = some (.cmd 0x00000004) ∧ s.rstN = true ∧
      (decode (.cmd 0x00000004)).toOption = some .permute) ∧
    (let s : State := { hostAt (.rd 0x010 0) Kse.reset with turns := [] };
      s.turns = [] ∧ s.kse.pend = none ∧ s.host.current = some (.rd 0x010 0)) ∧
    decodeTableWord 32 0x83 = some (.finalize 8) ∧ decodeTableWord 13 0x01FC = some (.rdState 63) := by decide

theorem witness_StepCompletesThePendingCommand :
    ({ stateOf finalizing with turns := [.engine] } : State).turns.head? = some .engine ∧
    ((stateOf finalizing).turns = [] ∧ (stateOf finalizing).kse.pend ≠ none) := by decide

theorem witness_PendingCommandIsRetired :
    ({ stateOf finalizing with turns := [.host, .host] } : State).kse.busy = true ∧
    ({ stateOf finalizing with turns := [.host, .host] } : State).kse.pend ≠ none := by decide

theorem witness_KeccakStepFormulas : (0 < 5 ∧ 0 < 5) ∧ (4 < 5 ∧ 4 < 5) := by decide

theorem witness_PadBytes :
    (List.replicate 71 (0 : Byte)).length < 72 ∧ ([] : List Byte).length < 1 ∧ 71 < 72 ∧ 0 < 1 := by decide

theorem witness_BlockMeetsTheRatePortion : (List.replicate 200 (0xA3 : Byte)).length ≤ 200 ∧ 199 < 200 := by decide +kernel

theorem witness_ChunkingDoesNotChangeTheDigest :
    absorbed3.busy = false ∧ absorbed3.pend = none ∧ absorbed3.done = false ∧
    (∀ c ∈ [[1, 2, 3], ([] : List Byte), [4]], c.length ≤ 8) ∧ (∀ c ∈ [[1, 2, 3, (4 : Byte)]], c.length ≤ 8) ∧
    [(1 : Byte), 2, 3, 4, 5, 6, 7, 8].length ≤ 8 ∧
    [[1, 2, 3], ([] : List Byte), [4]].flatten = [[1, 2, 3, (4 : Byte)]].flatten := by decide

theorem witness_PermutationCountOfADigest :
    begun.Inv ∧ begun.busy = false ∧ begun.done = false ∧ begun.abuf = [] ∧ begun.permCount = 0 ∧ (∀ b ∈ [List.replicate 8 (0 : Byte)], b.length ≤ 8) ∧
    ([] : List Byte).length ≤ 8 := by
  refine ⟨⟨?_, ?_, ?_, ?_, ?_, ?_⟩, rfl, rfl, rfl, rfl, by decide, by decide⟩ <;>
    simp [begun, Kse.reset, Kse.ConfigLegal]

theorem witness_ResetReproducesTheDigest :
    digested.busy = false ∧ (∀ b ∈ [[0x61, 0x62, (0x63 : Byte)]], b.length ≤ 8) ∧ ([] : List Byte).length ≤ 8 := by decide

theorem witness_HostBranches :
    (hostAt (.bnz 1 1 2) Kse.reset).host.current = some (.bnz 1 1 2) ∧
    (hostAt (.bz 1 1 2) Kse.reset).host.current = some (.bz 1 1 2) ∧
    (hostAt (.jmp 2) Kse.reset).host.current = some (.jmp 2) ∧
    (hostAt (.label 2) Kse.reset).host.current = some (.label 2) ∧
    (hostAt .halt Kse.reset).host.current = some .halt := by decide

theorem witness_StageStagesItsBytes :
    ([] : List Byte).length ≤ 8 ∧ [(1 : Byte), 2, 3, 4, 5, 6, 7, 8].length ≤ 8 := by decide

end Sys2Proof.Tests
end

section
/-! The registers ID and HWCFG: constant words that a write leaves alone (10_state.md R21, R22). -/

namespace Sys2Proof.Machine

/-! ### The port's answers, as the statements name them -/

theorem respondRead_eq_afterRead (w : Word) (s : State) : respondRead w s = .next (s.afterRead w) := rfl

theorem respondWrite_eq_afterWrite (f : Kse → Kse) (s : State) :
    respondWrite f s = .next (s.afterWrite (f s.kse)) := rfl

/-! ### Exec of the accesses to ID and HWCFG -/

theorem exec_rdId (s : State) : exec .rdId s = .next (s.afterRead idWord) := respondRead_eq_afterRead _ s

theorem exec_wrId (d : Word) (s : State) : exec (.wrId d) s = .next (s.afterWrite s.kse) :=
  respondWrite_eq_afterWrite Kse.ignoreWrite s

theorem exec_rdHwcfg (s : State) :
    exec .rdHwcfg s = .next (s.afterRead (hwcfgWord Config.roundsPerCycle)) := respondRead_eq_afterRead _ s

theorem exec_wrHwcfg (d : Word) (s : State) : exec (.wrHwcfg d) s = .next (s.afterWrite s.kse) :=
  respondWrite_eq_afterWrite Kse.ignoreWrite s

/-! ### The fields of HWCFG, for every build -/

/-- The legal values of ROUNDS_PER_CYCLE (00_scope.md R7). -/
theorem rounds_mem (k : RoundsPerCycle) : k.rounds ∈ [1, 2, 3, 4, 6, 8, 12, 24] := by
  cases k <;> decide

theorem hwcfgWord_roundsPerCycle (k : RoundsPerCycle) : ((hwcfgWord k).extractLsb' 0 8).toNat = k.rounds := by
  have hfits : k.rounds < 2 ^ 8 := by cases k <;> decide
  rw [hwcfgWord, BitVec.extractLsb'_append_eq_right, BitVec.toNat_ofNat, Nat.mod_eq_of_lt hfits]

theorem hwcfgWord_maxRateBytes (k : RoundsPerCycle) : (hwcfgWord k).extractLsb' 8 8 = 200 := by
  rw [hwcfgWord, BitVec.extractLsb'_append_eq_of_le (Nat.le_refl 8), BitVec.extractLsb'_append_eq_right]

theorem hwcfgWord_outBufBytes (k : RoundsPerCycle) : (hwcfgWord k).extractLsb' 16 16 = 256 := by
  rw [hwcfgWord, BitVec.extractLsb'_append_eq_of_le (by decide), BitVec.extractLsb'_append_eq_left]

/-- Settles O7: the read answers the word of R21, the write keeps the KSE, and the word's bytes are "KECC". -/
theorem idRegister : Obligations.IdRegister := by
  intro s
  exact ⟨exec_rdId s, fun d => exec_wrId d s, by decide⟩

/-- Settles O8, with the build's own word as the witness; its fields are those of every build. -/
theorem hwcfgRegister : Obligations.HwcfgRegister := by
  refine ⟨hwcfgWord Config.roundsPerCycle, fun s => ⟨exec_rdHwcfg s, fun d => exec_wrHwcfg d s⟩,
    hwcfgWord_roundsPerCycle _, ?legalRounds, ?maxRateBytes, ?outBufBytes, rfl, ?oneRoundBuild⟩
  case legalRounds =>
    rw [hwcfgWord_roundsPerCycle]
    exact rounds_mem _
  case maxRateBytes => exact congrArg BitVec.toNat (hwcfgWord_maxRateBytes _)
  case outBufBytes => exact congrArg BitVec.toNat (hwcfgWord_outBufBytes _)
  case oneRoundBuild => decide

end Sys2Proof.Machine
end

section
/-! Misaligned and unmapped offsets (20_memory.md R65, R69): which offsets the bus decoder refuses, and what an access
to one of them does. -/

namespace Sys2Proof.Machine

/-! ### The masks of R109 as arithmetic -/

theorem busOp_toNat (b : Bool) (off : Offset) : (busOp b off).toNat = 4096 * b.toNat + off.toNat := by
  have hoff : off.toNat < 2 ^ 12 := off.isLt
  rw [busOp, BitVec.toNat_append, ← Nat.shiftLeft_add_eq_or_of_lt hoff, Nat.shiftLeft_eq, BitVec.toNat_ofBool]
  omega

/-- An offset is misaligned exactly if it is no multiple of 4. -/
theorem offset_misaligned_iff (off : Offset) : off.extractLsb' 0 2 ≠ 0 ↔ off.toNat % 4 ≠ 0 := by
  simp [← BitVec.toNat_inj]

/-- The mask of a register's row keeps every bit. -/
theorem and_registerMask_eq_iff (op row : BusOp) : op &&& 0x1FFF = row ↔ op.toNat = row.toNat := by
  rw [show (0x1FFF : BusOp) = BitVec.allOnes 13 from rfl, BitVec.and_allOnes, BitVec.toNat_inj]

/-- The mask of a window's row drops the word index, bits 7:2. -/
theorem and_windowMask (op : BusOp) :
    op &&& 0x1F03 = op.extractLsb' 8 5 ++ (0 : BitVec 6) ++ op.extractLsb' 0 2 := by
  apply BitVec.eq_of_getLsbD_eq
  intro i hi
  simp only [BitVec.getLsbD_and, BitVec.getLsbD_append, BitVec.getLsbD_extractLsb']
  interval_cases i <;> simp

theorem and_windowMask_toNat (op : BusOp) : (op &&& 0x1F03).toNat = op.toNat / 256 * 256 + op.toNat % 4 := by
  have hop : op.toNat < 2 ^ 13 := op.isLt
  have hlow : op.toNat % 4 < 2 ^ 2 := Nat.mod_lt _ (by decide)
  have hhigh : op.toNat / 256 % 2 ^ 5 = op.toNat / 256 := Nat.mod_eq_of_lt (by omega)
  calc (op &&& 0x1F03).toNat
    _ = (op.toNat / 256 % 2 ^ 5) <<< 6 <<< 2 ||| op.toNat % 4 := by
      rw [and_windowMask, BitVec.toNat_append, BitVec.toNat_append, BitVec.extractLsb'_toNat, BitVec.extractLsb'_toNat]
      simp [Nat.shiftRight_eq_div_pow]
    _ = op.toNat / 256 * 256 + op.toNat % 4 := by
      rw [← Nat.shiftLeft_add_eq_or_of_lt hlow, hhigh, Nat.shiftLeft_eq, Nat.shiftLeft_eq, Nat.mul_assoc]

theorem and_windowMask_eq_iff (op row : BusOp) :
    op &&& 0x1F03 = row ↔ op.toNat / 256 * 256 + op.toNat % 4 = row.toNat := by
  rw [← BitVec.toNat_inj, and_windowMask_toNat]

/-! ### What the bus decoder refuses -/

/-- The offsets of R65 and R69 that end with resp = ERROR. -/
def RefusedOffset (off : Offset) : Prop :=
  off.extractLsb' 0 2 ≠ 0 ∨ (0x024 ≤ off.toNat ∧ off.toNat ≤ 0x0FC) ∨ (0x300 ≤ off.toNat ∧ off.toNat ≤ 0xFFC)

/-- A table of rows refuses exactly if its first row does not match and the rest refuses. -/
theorem exists_error_ite_ok (c : Prop) [Decidable c] (i : Instr) (rest : Except DecodeError Instr) :
    (∃ e, (if c then .ok i else rest) = Except.error e) ↔ ¬ c ∧ ∃ e, rest = .error e := by
  by_cases h : c <;> simp [h]

/-- A misaligned offset is refused at once; an aligned one is refused exactly if it meets no row of R109. -/
theorem exists_decode_error_iff (b : Bool) (off : Offset) (d : Word) :
    (∃ e, decode (.bus (busOp b off) d) = .error e) ↔ RefusedOffset off := by
  have hoff : off.toNat < 4096 := off.isLt
  rw [decode, decodeBus, busAddr_busOp, RefusedOffset]
  by_cases hmis : off.extractLsb' 0 2 ≠ 0
  case pos =>
    rw [if_pos hmis]
    exact ⟨fun _ => .inl hmis, fun _ => ⟨_, rfl⟩⟩
  case neg =>
    have haligned : off.toNat % 4 = 0 := not_not.mp ((offset_misaligned_iff off).not.mp hmis)
    rw [if_neg hmis, or_iff_right hmis]
    simp only [exists_error_ite_ok, and_registerMask_eq_iff, and_windowMask_eq_iff, busOp_toNat,
      BitVec.reduceToNat, Except.error.injEq, exists_eq', and_true]
    have hwrite : b.toNat ≤ 1 := Bool.toNat_le b
    omega

/-- An access whose bus operation the decoder refuses ends in a bus error. -/
theorem access_of_decode_error {op : BusOp} {d : Word} {e : DecodeError} (h : decode (.bus op d) = .error e)
    {s : State} (hr : s.rstN = true) : access (.bus op d) s = .next (busError (busWrites op) s) := by
  rw [access, if_pos hr, h, rejectedWord]

theorem access_of_refusedOffset {off : Offset} (h : RefusedOffset off) (b : Bool) (d : Word) {s : State}
    (hr : s.rstN = true) : access (.bus (busOp b off) d) s = .next (busError b s) := by
  obtain ⟨e, he⟩ := (exists_decode_error_iff b off d).mpr h
  rw [access_of_decode_error he hr, busWrites_busOp]

/-- Settles O5: reads and writes are refused at the same offsets, and end in the port's bus error. -/
theorem misalignedAndUnmappedAccess : Obligations.MisalignedAndUnmappedAccess := by
  intro off d bad
  exact ⟨(exists_decode_error_iff false off d).symm, (exists_decode_error_iff true off d).symm,
    fun hbad s hr => ⟨access_of_refusedOffset hbad false d hr, access_of_refusedOffset hbad true d hr⟩⟩

end Sys2Proof.Machine
end

section
/-! The writes to CONFIG, STATUS, IRQ_EN and DIN, and to the read-only offsets (20_memory.md R66, R67, R68, R73). -/

namespace Sys2Proof.Machine

/-! ### Exec of the writes -/

theorem exec_wrConfig (d : Word) (s : State) :
    exec (.wrConfig d) s = .next (s.afterWrite (s.kse.configWrite d)) :=
  respondWrite_eq_afterWrite (·.configWrite d) s

theorem exec_wrStatus (d : Word) (s : State) :
    exec (.wrStatus d) s = .next (s.afterWrite (s.kse.statusWrite d)) :=
  respondWrite_eq_afterWrite (·.statusWrite d) s

theorem exec_wrIrqEn (d : Word) (s : State) :
    exec (.wrIrqEn d) s = .next (s.afterWrite (s.kse.setIrqEn (d.getLsbD 0) (d.getLsbD 1))) :=
  respondWrite_eq_afterWrite (·.setIrqEn (d.getLsbD 0) (d.getLsbD 1)) s

theorem exec_wrDinLo (d : Word) (s : State) : exec (.wrDinLo d) s = .next (s.afterWrite (s.kse.setDinLo d)) :=
  respondWrite_eq_afterWrite (·.setDinLo d) s

theorem exec_wrDinHi (d : Word) (s : State) : exec (.wrDinHi d) s = .next (s.afterWrite (s.kse.setDinHi d)) :=
  respondWrite_eq_afterWrite (·.setDinHi d) s

theorem exec_wrPermCount (d : Word) (s : State) : exec (.wrPermCount d) s = .next (s.afterWrite s.kse) :=
  respondWrite_eq_afterWrite Kse.ignoreWrite s

theorem exec_wrState (w : BitVec 6) (d : Word) (s : State) :
    exec (.wrState w d) s = .next (s.afterWrite s.kse) := respondWrite_eq_afterWrite Kse.ignoreWrite s

theorem exec_wrDout (w : BitVec 6) (d : Word) (s : State) :
    exec (.wrDout w d) s = .next (s.afterWrite s.kse) := respondWrite_eq_afterWrite Kse.ignoreWrite s

/-! ### ConfigWrite, one case of R67 each -/

/-- The legal ranges of the three fields (R67). -/
theorem configLegal_iff (r u : Byte) (o : BitVec 9) :
    configLegal r u o = true ↔
      (1 ≤ r.toNat ∧ r.toNat ≤ 200) ∧ (0x01 ≤ u.toNat ∧ u.toNat ≤ 0x7F) ∧ (1 ≤ o.toNat ∧ o.toNat ≤ 256) :=
  decide_eq_true_iff

section ConfigWriteCases

variable {k : Kse} {d : Word}

theorem configWrite_of_busy (hb : k.busy = true) : k.configWrite d = k.recordErr .busyErr := if_pos hb

theorem configWrite_of_locked (hb : k.busy = false) (hl : k.locked = true) :
    k.configWrite d = k.recordErr .cfgLocked := by
  simp [Kse.configWrite, hb, hl]

theorem configWrite_of_idle (hb : k.busy = false) (hl : k.locked = false) :
    k.configWrite d =
      if configLegal (d.extractLsb' 0 8) (d.extractLsb' 8 8) (d.extractLsb' 16 9) then
        k.setConfig (d.extractLsb' 0 8) (d.extractLsb' 8 8) (d.extractLsb' 16 9)
      else k.recordErr .cfgInvalid := by
  simp [Kse.configWrite, hb, hl]

end ConfigWriteCases

/-- Settles O15, one clause per case of ConfigWrite; the worked example is the legal case of its word. -/
theorem configWriteEffect : Obligations.ConfigWriteEffect := by
  intro s d r u o legal
  simp only [exec_wrConfig]
  refine ⟨?busy, ?locked, ?illegal, ?legal, ?worked⟩
  case busy =>
    intro hb
    rw [configWrite_of_busy hb]
  case locked =>
    intro hb hl
    rw [configWrite_of_locked hb hl]
  case illegal =>
    intro hb hl hlegal
    rw [configWrite_of_idle hb hl, if_neg ((configLegal_iff r u o).not.mpr hlegal)]
  case legal =>
    intro hb hl hlegal
    rw [configWrite_of_idle hb hl, if_pos ((configLegal_iff r u o).mpr hlegal)]
    rfl
  case worked =>
    intro hb hl
    rw [configWrite_of_idle hb hl, if_pos (by decide)]
    rfl

theorem statusWrite_of_set {d : Word} (h : d.getLsbD 31 = true) (k : Kse) : k.statusWrite d = k.clearErr := if_pos h

theorem statusWrite_of_clear {d : Word} (h : d.getLsbD 31 = false) (k : Kse) : k.statusWrite d = k :=
  if_neg (ne_true_of_eq_false h)

/-- Settles O16: bit 31 selects between the acknowledgement and no effect. -/
theorem statusWriteEffect : Obligations.StatusWriteEffect := by
  intro s d
  constructor
  · intro h
    rw [exec_wrStatus, statusWrite_of_set h]
    rfl
  · intro h
    rw [exec_wrStatus, statusWrite_of_clear h]

/-- Settles O17: the three offsets decode to their writes, and none of these looks at the state. -/
theorem registerWriteEffect : Obligations.RegisterWriteEffect := by
  intro s d
  exact ⟨rfl, rfl, rfl, exec_wrIrqEn d s, exec_wrDinLo d s, exec_wrDinHi d s⟩

/-- Settles O18, from exec of each of the five writes. -/
theorem readOnlyWritesIgnored : Obligations.ReadOnlyWritesIgnored := by
  intro s d w
  exact ⟨exec_wrId d s, exec_wrHwcfg d s, exec_wrPermCount d s, exec_wrState w d s, exec_wrDout w d s⟩

end Sys2Proof.Machine
end

section
/-! The illegal command words (30_encoding.md R106): which words the command decoder refuses, and what a CMD write of
one of them does. -/

namespace Sys2Proof

/-! ### The command decoder, one equation per opcode of R101 -/

theorem opcode_cases (o : BitVec 4) :
    o = 0x0 ∨ o = 0x1 ∨ o = 0x2 ∨ o = 0x3 ∨ o = 0x4 ∨ 5 ≤ o.toNat := by
  simp only [← BitVec.toNat_inj, BitVec.reduceToNat]
  omega

section DecodeCommandEquations

variable {w : Word}

theorem decodeCommand_of_rsv (hr : cmdRsv w ≠ 0) : decodeCommand w = .error .reservedBits := if_pos hr

theorem decodeCommand_of_nop (hr : cmdRsv w = 0) (ho : cmdOpc w = 0x0) :
    decodeCommand w = lenMustBeZero (cmdLen w) .nop := by
  simp [decodeCommand, hr, ho]

theorem decodeCommand_of_reset (hr : cmdRsv w = 0) (ho : cmdOpc w = 0x1) :
    decodeCommand w = lenMustBeZero (cmdLen w) .reset := by
  simp [decodeCommand, hr, ho]

theorem decodeCommand_of_absorb (hr : cmdRsv w = 0) (ho : cmdOpc w = 0x2) :
    decodeCommand w = lenAtMostEight (cmdLen w) (.absorb (cmdLen w)) := by
  simp [decodeCommand, hr, ho]

theorem decodeCommand_of_finalize (hr : cmdRsv w = 0) (ho : cmdOpc w = 0x3) :
    decodeCommand w = lenAtMostEight (cmdLen w) (.finalize (cmdLen w)) := by
  simp [decodeCommand, hr, ho]

theorem decodeCommand_of_permute (hr : cmdRsv w = 0) (ho : cmdOpc w = 0x4) :
    decodeCommand w = lenMustBeZero (cmdLen w) .permute := by
  simp [decodeCommand, hr, ho]

theorem decodeCommand_of_reservedOpcode (hr : cmdRsv w = 0) (ho : 5 ≤ (cmdOpc w).toNat) :
    decodeCommand w = .error .reservedOpcode := by
  have hne (c : BitVec 4) (hc : c.toNat < 5) : cmdOpc w ≠ c := fun h => absurd hc (by rw [← h]; omega)
  simp [decodeCommand, hr, hne]

end DecodeCommandEquations

/-! ### What the command decoder refuses -/

theorem exists_lenMustBeZero_error_iff (n : BitVec 4) (i : Instr) :
    (∃ e, lenMustBeZero n i = .error e) ↔ n ≠ 0 := by
  rw [lenMustBeZero, Machine.exists_error_ite_ok]
  exact and_iff_left ⟨_, rfl⟩

theorem exists_lenAtMostEight_error_iff (n : BitVec 4) (i : Instr) :
    (∃ e, lenAtMostEight n i = .error e) ↔ 9 ≤ n.toNat := by
  rw [lenAtMostEight, Machine.exists_error_ite_ok, BitVec.not_le]
  exact and_iff_left ⟨_, rfl⟩

/-- The four classes of R106, by the fields of the word. -/
def IllegalCommandWord (w : Word) : Prop :=
  cmdRsv w ≠ 0 ∨ 5 ≤ (cmdOpc w).toNat ∨ ((cmdOpc w).toNat ∈ [0, 1, 4] ∧ cmdLen w ≠ 0) ∨
    ((cmdOpc w).toNat ∈ [2, 3] ∧ 9 ≤ (cmdLen w).toNat)

/-- With RSV = 0 the opcode alone decides which of the other three classes the word can be in. -/
theorem exists_decodeCommand_error_iff (w : Word) : (∃ e, decodeCommand w = .error e) ↔ IllegalCommandWord w := by
  by_cases hr : cmdRsv w = 0
  case neg =>
    rw [decodeCommand_of_rsv hr]
    exact ⟨fun _ => .inl hr, fun _ => ⟨_, rfl⟩⟩
  case pos =>
    rcases opcode_cases (cmdOpc w) with ho | ho | ho | ho | ho | ho
    · rw [decodeCommand_of_nop hr ho, exists_lenMustBeZero_error_iff]
      simp [IllegalCommandWord, hr, ho]
    · rw [decodeCommand_of_reset hr ho, exists_lenMustBeZero_error_iff]
      simp [IllegalCommandWord, hr, ho]
    · rw [decodeCommand_of_absorb hr ho, exists_lenAtMostEight_error_iff]
      simp [IllegalCommandWord, hr, ho]
    · rw [decodeCommand_of_finalize hr ho, exists_lenAtMostEight_error_iff]
      simp [IllegalCommandWord, hr, ho]
    · rw [decodeCommand_of_permute hr ho, exists_lenMustBeZero_error_iff]
      simp [IllegalCommandWord, hr, ho]
    · rw [decodeCommand_of_reservedOpcode hr ho]
      exact ⟨fun _ => .inr (.inl ho), fun _ => ⟨_, rfl⟩⟩

end Sys2Proof

namespace Sys2Proof.Machine

/-! ### A CMD write of an illegal word -/

theorem exec_wrCmd (d : Word) (s : State) : exec (.wrCmd d) s = .next (s.afterWrite (s.kse.commandWrite d)) :=
  respondWrite_eq_afterWrite (·.commandWrite d) s

/-- The checks of R104 that record ILLEGAL_CMD are the classes of R106, in an order of their own. -/
theorem commandWrite_of_illegal {k : Kse} (hb : k.busy = false) {d : Word} (h : IllegalCommandWord d) :
    k.commandWrite d = k.recordErr .illegalCmd := by
  rw [Kse.commandWrite, if_neg (ne_true_of_eq_false hb), ← ite_or, ← ite_or, ← ite_or, if_pos]
  rw [or_assoc, or_assoc]
  rcases h with hrsv | hopc | ⟨hopc, hlen⟩ | ⟨hopc, hlen⟩
  · exact .inl hrsv
  · exact .inr (.inr (.inr hopc))
  · have hopc' : cmdOpc d = 0x0 ∨ cmdOpc d = 0x1 ∨ cmdOpc d = 0x4 := by
      simpa [← BitVec.toNat_inj] using hopc
    exact .inr (.inl ⟨hopc', hlen⟩)
  · have hopc' : cmdOpc d = 0x2 ∨ cmdOpc d = 0x3 := by
      simpa [← BitVec.toNat_inj] using hopc
    exact .inr (.inr (.inl ⟨hopc', hlen⟩))

/-- Settles O4, from the classes the decoder refuses and the check each of them meets in CommandWrite. -/
theorem illegalCommandWords : Obligations.IllegalCommandWords := by
  intro w
  refine ⟨exists_decodeCommand_error_iff w, fun s hb he => ?_⟩
  rw [exec_wrCmd, commandWrite_of_illegal hb ((exists_decodeCommand_error_iff w).mp he)]

end Sys2Proof.Machine
end

section
/-! The interrupt output (60_exceptions.md R230, R231). -/

namespace Sys2Proof.Machine

/-- Settles O34: `irq` is the OR of the two sources of R231, each an AND with its enable bit. -/
theorem irqFollowsTheState : Obligations.IrqFollowsTheState := by
  intro k
  have hdone : (k.done && k.doneIe) = true ↔ k.done = true ∧ k.doneIe = true := Bool.and_eq_true_iff
  have herr : (k.err != .none && k.errIe) = true ↔ k.err ≠ .none ∧ k.errIe = true := by
    rw [Bool.and_eq_true_iff, bne_iff_ne]
  rw [Kse.irq, Bool.or_eq_true_iff, hdone, herr]

end Sys2Proof.Machine
end

section
/-! Accesses during hardware reset (70_reset_and_hazards.md R276): the port refuses them, and with it the host step. -/

namespace Sys2Proof.Machine

/-- While `rst_n` = 0 the port refuses every access, before it decodes anything. -/
theorem access_of_rstN_false {s : State} (hr : s.rstN = false) (p : PortWord) :
    access p s = .refused .accessDuringReset := if_neg (ne_true_of_eq_false hr)

/-- A statement with an access spends its host step on that access. -/
theorem hostStep_of_portWord {s : State} {st : HostStmt} {p : PortWord} (hst : s.host.current = some st)
    (hp : st.portWord = some p) : hostStep s = thenNext (access p (advanceHost s)) (latch st.dest) := by
  simp only [hostStep, hst, hp]

/-- Settles O38: on the host's turn the statement's access comes first, its refusal ends the step. -/
theorem accessDuringResetIsRefused : Obligations.AccessDuringResetIsRefused := by
  intro s rest st p hr hst hp
  have hrefused : access p (advanceHost { s with turns := rest }) = .refused .accessDuringReset :=
    access_of_rstN_false (by simpa using hr) p
  calc step { s with turns := .host :: rest }
    _ = hostStep { s with turns := rest } := step_of_cons (s := { s with turns := .host :: rest }) rfl
    _ = thenNext (access p (advanceHost { s with turns := rest })) (latch st.dest) := hostStep_of_portWord hst hp
    _ = thenNext (.refused .accessDuringReset) (latch st.dest) := by rw [hrefused]
    _ = .refused .accessDuringReset := rfl

end Sys2Proof.Machine
end

section
/-! The encoder and the decoder are inverse to each other (30_encoding.md R101, R104, R109, R111). -/

namespace Sys2Proof

open Sys2Proof.Machine (and_registerMask_eq_iff and_windowMask_eq_iff busOp_toNat)

/-! ### Decoding an encoded word -/

theorem lenAtMostEight_of_le {n : BitVec 4} (hn : n.toNat ≤ 8) (i : Instr) : lenAtMostEight n i = .ok i := if_pos hn

theorem decodeCommand_absorb {n : BitVec 4} (hn : n.toNat ≤ 8) :
    decodeCommand (commandWord 0x2 n) = .ok (.absorb n) := by
  rw [decodeCommand_of_absorb (cmdRsv_commandWord _ _) (cmdOpc_commandWord _ _), cmdLen_commandWord,
    lenAtMostEight_of_le hn]

theorem decodeCommand_finalize {n : BitVec 4} (hn : n.toNat ≤ 8) :
    decodeCommand (commandWord 0x3 n) = .ok (.finalize n) := by
  rw [decodeCommand_of_finalize (cmdRsv_commandWord _ _) (cmdOpc_commandWord _ _), cmdLen_commandWord,
    lenAtMostEight_of_le hn]

theorem decodeBus_rdState : ∀ w : BitVec 6, decodeBus (busOp false (windowOffset 1 w)) 0 = .ok (.rdState w) := by
  decide

theorem decodeBus_rdDout : ∀ w : BitVec 6, decodeBus (busOp false (windowOffset 2 w)) 0 = .ok (.rdDout w) := by
  decide

theorem decodeBus_wrState (w : BitVec 6) (d : Word) :
    decodeBus (busOp true (windowOffset 1 w)) d = .ok (.wrState w d) := by
  have h0 : ∀ v : BitVec 6, decodeBus (busOp true (windowOffset 1 v)) 0 = .ok (.wrState v 0) := by decide
  rw [decodeBus_data, h0]
  rfl

theorem decodeBus_wrDout (w : BitVec 6) (d : Word) :
    decodeBus (busOp true (windowOffset 2 w)) d = .ok (.wrDout w d) := by
  have h0 : ∀ v : BitVec 6, decodeBus (busOp true (windowOffset 2 v)) 0 = .ok (.wrDout v 0) := by decide
  rw [decodeBus_data, h0]
  rfl

/-- LEN and the windows' word index are the fields that vary; every other instruction has one word, whose row the
decoder reaches by evaluation. -/
theorem decode_encode {i : Instr} (hi : WellFormed i = true) : decode (encode i) = .ok i := by
  cases i with
  | absorb n => exact decodeCommand_absorb (of_decide_eq_true hi)
  | finalize n => exact decodeCommand_finalize (of_decide_eq_true hi)
  | rdState w => exact decodeBus_rdState w
  | rdDout w => exact decodeBus_rdDout w
  | wrState w d => exact decodeBus_wrState w d
  | wrDout w d => exact decodeBus_wrDout w d
  | _ => rfl

/-- Settles O1. -/
theorem decodeOfEncodeIsIdentity : Obligations.DecodeOfEncodeIsIdentity := fun _ hi => decode_encode hi

/-! ### Encoding a decoded command word -/

theorem lenMustBeZero_eq_ok {n : BitVec 4} {i j : Instr} (h : lenMustBeZero n i = .ok j) : n = 0 ∧ j = i := by
  unfold lenMustBeZero at h
  split at h
  · next hn => exact ⟨hn, (Except.ok.inj h).symm⟩
  · cases h

theorem lenAtMostEight_eq_ok {n : BitVec 4} {i j : Instr} (h : lenAtMostEight n i = .ok j) : n.toNat ≤ 8 ∧ j = i := by
  unfold lenAtMostEight at h
  split at h
  · next hn => exact ⟨hn, (Except.ok.inj h).symm⟩
  · cases h

/-- A word of RSV = 0, from its opcode and LEN. -/
theorem eq_commandWord {w : Word} {o n : BitVec 4} (hr : cmdRsv w = 0) (ho : cmdOpc w = o) (hn : cmdLen w = n) :
    commandWord o n = w := by
  rw [← ho, ← hn, commandWord_fields hr]

theorem encode_of_decodeCommand {w : Word} {i : Instr} (h : decodeCommand w = .ok i) :
    WellFormed i = true ∧ encode i = .cmd w := by
  by_cases hr : cmdRsv w = 0
  case neg =>
    rw [decodeCommand_of_rsv hr] at h
    cases h
  case pos =>
    rcases opcode_cases (cmdOpc w) with ho | ho | ho | ho | ho | ho
    · rw [decodeCommand_of_nop hr ho] at h
      obtain ⟨hn, rfl⟩ := lenMustBeZero_eq_ok h
      exact ⟨rfl, congrArg PortWord.cmd (eq_commandWord hr ho hn)⟩
    · rw [decodeCommand_of_reset hr ho] at h
      obtain ⟨hn, rfl⟩ := lenMustBeZero_eq_ok h
      exact ⟨rfl, congrArg PortWord.cmd (eq_commandWord hr ho hn)⟩
    · rw [decodeCommand_of_absorb hr ho] at h
      obtain ⟨hn, rfl⟩ := lenAtMostEight_eq_ok h
      exact ⟨decide_eq_true hn, congrArg PortWord.cmd (eq_commandWord hr ho rfl)⟩
    · rw [decodeCommand_of_finalize hr ho] at h
      obtain ⟨hn, rfl⟩ := lenAtMostEight_eq_ok h
      exact ⟨decide_eq_true hn, congrArg PortWord.cmd (eq_commandWord hr ho rfl)⟩
    · rw [decodeCommand_of_permute hr ho] at h
      obtain ⟨hn, rfl⟩ := lenMustBeZero_eq_ok h
      exact ⟨rfl, congrArg PortWord.cmd (eq_commandWord hr ho hn)⟩
    · rw [decodeCommand_of_reservedOpcode hr ho] at h
      cases h

/-! ### Encoding a decoded bus operation -/

/-- What a row of R109 must satisfy: its instruction is well-formed and is encoded as the operation, with the data
word of a write, and with 0 for a read. -/
def EncodedAs (op : BusOp) (d : Word) (i : Instr) : Prop :=
  WellFormed i = true ∧ encode i = .bus op (if busWrites op then d else 0)

/-- To prove something of every instruction that a table of rows gives, prove it of each row. -/
theorem forall_ok_of_row {P : Instr → Prop} {c : Prop} [Decidable c] {j : Instr} {rest : Except DecodeError Instr}
    (hrow : c → P j) (hrest : ∀ i, rest = .ok i → P i) : ∀ i, (if c then .ok j else rest) = .ok i → P i := by
  intro i h
  split at h
  · next hc => exact Except.ok.inj h ▸ hrow hc
  · exact hrest i h

theorem eq_of_registerMask {op row : BusOp} (h : op &&& 0x1FFF = row) : op = row :=
  BitVec.eq_of_toNat_eq ((and_registerMask_eq_iff op row).mp h)

theorem windowOffset_toNat (base : BitVec 4) (w : BitVec 6) :
    (windowOffset base w).toNat = 256 * base.toNat + 4 * w.toNat := by
  have hw : w.toNat < 2 ^ 6 := w.isLt
  rw [windowOffset, BitVec.toNat_append, BitVec.toNat_append, ← Nat.shiftLeft_add_eq_or_of_lt hw, Nat.shiftLeft_eq,
    Nat.shiftLeft_eq, show (0 : BitVec 2).toNat = 0 from rfl, Nat.or_zero]
  omega

theorem busWindowWord_toNat (op : BusOp) : (busWindowWord op).toNat = op.toNat / 4 % 64 := by
  rw [busWindowWord, BitVec.extractLsb'_toNat, Nat.shiftRight_eq_div_pow]

/-- A bus operation on a window's row is the row's base with the window word filled in. -/
theorem eq_of_windowMask {op : BusOp} (b : Bool) (base : BitVec 4)
    (h : op &&& 0x1F03 = busOp b (windowOffset base 0)) : op = busOp b (windowOffset base (busWindowWord op)) := by
  rw [and_windowMask_eq_iff, busOp_toNat, windowOffset_toNat, show (0 : BitVec 6).toNat = 0 from rfl] at h
  apply BitVec.eq_of_toNat_eq
  rw [busOp_toNat, windowOffset_toNat, busWindowWord_toNat]
  omega

section Rows

variable {op : BusOp} {d : Word}

theorem encodedAs_of_registerRow {row : BusOp} {j : Instr} (hrow : EncodedAs row d j) (hm : op &&& 0x1FFF = row) :
    EncodedAs op d j := eq_of_registerMask hm ▸ hrow

theorem encodedAs_of_windowRow (b : Bool) (base : BitVec 4) {j : BitVec 6 → Instr}
    (hrow : ∀ w, EncodedAs (busOp b (windowOffset base w)) d (j w))
    (hm : op &&& 0x1F03 = busOp b (windowOffset base 0)) : EncodedAs op d (j (busWindowWord op)) := by
  have hop := hrow (busWindowWord op)
  rwa [← eq_of_windowMask b base hm] at hop

end Rows

theorem encodedAs_read (off : Offset) (d : Word) {i : Instr} (hw : WellFormed i = true)
    (he : encode i = .bus (busOp false off) 0) : EncodedAs (busOp false off) d i :=
  ⟨hw, by rw [he, busWrites_busOp]; rfl⟩

theorem encodedAs_write (off : Offset) (d : Word) {i : Instr} (hw : WellFormed i = true)
    (he : encode i = .bus (busOp true off) d) : EncodedAs (busOp true off) d i :=
  ⟨hw, by rw [he, busWrites_busOp]; rfl⟩

/-- Row by row of R109: nine registers and two windows, read and written. -/
theorem encodedAs_of_decodeBus (op : BusOp) (d : Word) : ∀ i, decodeBus op d = .ok i → EncodedAs op d i := by
  have hread (off : Offset) {i : Instr} (hw : WellFormed i = true) (he : encode i = .bus (busOp false off) 0) :
      op &&& 0x1FFF = busOp false off → EncodedAs op d i := encodedAs_of_registerRow (encodedAs_read off d hw he)
  have hwrite (off : Offset) {i : Instr} (hw : WellFormed i = true) (he : encode i = .bus (busOp true off) d) :
      op &&& 0x1FFF = busOp true off → EncodedAs op d i := encodedAs_of_registerRow (encodedAs_write off d hw he)
  rw [decodeBus]
  by_cases hmis : (busAddr op).extractLsb' 0 2 ≠ 0
  · rw [if_pos hmis]
    exact fun _ h => nomatch h
  · rw [if_neg hmis]
    exact
      forall_ok_of_row (hread 0x000 rfl rfl) <| forall_ok_of_row (hread 0x004 rfl rfl) <|
      forall_ok_of_row (hread 0x008 rfl rfl) <| forall_ok_of_row (hread 0x00C rfl rfl) <|
      forall_ok_of_row (hread 0x010 rfl rfl) <| forall_ok_of_row (hread 0x014 rfl rfl) <|
      forall_ok_of_row (hread 0x018 rfl rfl) <| forall_ok_of_row (hread 0x01C rfl rfl) <|
      forall_ok_of_row (hread 0x020 rfl rfl) <|
      forall_ok_of_row (encodedAs_of_windowRow false 1 fun _ => encodedAs_read _ d rfl rfl) <|
      forall_ok_of_row (encodedAs_of_windowRow false 2 fun _ => encodedAs_read _ d rfl rfl) <|
      forall_ok_of_row (hwrite 0x000 rfl rfl) <| forall_ok_of_row (hwrite 0x004 rfl rfl) <|
      forall_ok_of_row (hwrite 0x008 rfl rfl) <| forall_ok_of_row (hwrite 0x00C rfl rfl) <|
      forall_ok_of_row (hwrite 0x010 rfl rfl) <| forall_ok_of_row (hwrite 0x014 rfl rfl) <|
      forall_ok_of_row (hwrite 0x018 rfl rfl) <| forall_ok_of_row (hwrite 0x01C rfl rfl) <|
      forall_ok_of_row (hwrite 0x020 rfl rfl) <|
      forall_ok_of_row (encodedAs_of_windowRow true 1 fun w => encodedAs_write _ d (i := .wrState w d) rfl rfl) <|
      forall_ok_of_row (encodedAs_of_windowRow true 2 fun w => encodedAs_write _ d (i := .wrDout w d) rfl rfl)
      fun _ h => nomatch h

/-- Settles O2: a command word by its fields, a bus operation by its row. -/
theorem encodeOfDecodeIsTheWord : Obligations.EncodeOfDecodeIsTheWord := by
  intro p i h
  cases p with
  | cmd w =>
    obtain ⟨hw, he⟩ := encode_of_decodeCommand h
    exact ⟨hw, .inl he⟩
  | bus op d =>
    obtain ⟨hw, he⟩ := encodedAs_of_decodeBus op d i h
    refine ⟨hw, ?_⟩
    cases hb : busWrites op with
    | true => exact .inl (by rw [he, hb]; rfl)
    | false => exact .inr ⟨op, d, rfl, hb, by rw [he, hb]; rfl⟩

/-- Settles O3: each of the fourteen words by evaluation of the decoder. -/
theorem specWordsDecode : Obligations.SpecWordsDecode :=
  ⟨rfl, rfl, rfl, rfl, rfl, rfl, rfl, rfl, rfl, rfl, rfl, rfl, rfl, rfl⟩

end Sys2Proof
end

section
/-! The invariant (10_state.md R44) holds after reset, and every step keeps it. -/

namespace Sys2Proof.Machine

/-! ### At reset -/

theorem reset_configLegal : Kse.reset.ConfigLegal := by
  unfold Kse.ConfigLegal
  decide

theorem reset_inv : Kse.reset.Inv where
  busy_iff_pend := by decide
  abuf_lt_rate := by decide
  done_abuf := fun _ => rfl
  unlocked_idle_fresh := fun _ _ => ⟨rfl, rfl, rfl, rfl, rfl⟩
  config := reset_configLegal
  pending := fun _ h => nomatch h

/-- Settles O39, with a host that has no temporaries. -/
theorem invariantHoldsAtReset : Obligations.InvariantHoldsAtReset :=
  ⟨reset_inv, fun _ => rfl, rfl⟩

/-! ### What the invariant gives -/

section Given

variable {k : Kse}

theorem Kse.Inv.pend_eq_none (h : k.Inv) (hb : k.busy = false) : k.pend = none :=
  not_not.mp fun hp => absurd (h.busy_iff_pend.mpr hp) (ne_true_of_eq_false hb)

theorem Kse.Inv.busy_eq_true (h : k.Inv) {p : Pending} (hp : k.pend = some p) : k.busy = true :=
  h.busy_iff_pend.mpr (by rw [hp]; exact Option.some_ne_none p)

end Given

/-- Settles O41: the facts are fields of the invariant. -/
theorem invariantGivesTheFiveFacts : Obligations.InvariantGivesTheFiveFacts := by
  intro s h
  refine ⟨h.kse.busy_iff_pend, fun _ => h.kse.abuf_lt_rate, h.kse.done_abuf, fun hl hb => ?_, h.kse.config⟩
  obtain ⟨hlanes, habuf, hdone, hcount, hdout⟩ := h.kse.unlocked_idle_fresh hl hb
  exact ⟨hlanes, habuf, hdone, hcount, hdout⟩

/-! ### The host's updates keep it -/

section HostUpdates

variable {k : Kse}

theorem inv_setErr (h : k.Inv) (e : ErrCode) : (k.setErr e).Inv :=
  ⟨h.busy_iff_pend, h.abuf_lt_rate, h.done_abuf, h.unlocked_idle_fresh, h.config, h.pending⟩

theorem inv_recordErr (h : k.Inv) (e : ErrCode) : (k.recordErr e).Inv := by
  rw [recordErr_eq]
  exact inv_setErr h _

theorem inv_setIrqEn (h : k.Inv) (a b : Bool) : (k.setIrqEn a b).Inv :=
  ⟨h.busy_iff_pend, h.abuf_lt_rate, h.done_abuf, h.unlocked_idle_fresh, h.config, h.pending⟩

theorem inv_setDinLo (h : k.Inv) (d : Word) : (k.setDinLo d).Inv :=
  ⟨h.busy_iff_pend, h.abuf_lt_rate, h.done_abuf, h.unlocked_idle_fresh, h.config, h.pending⟩

theorem inv_setDinHi (h : k.Inv) (d : Word) : (k.setDinHi d).Inv :=
  ⟨h.busy_iff_pend, h.abuf_lt_rate, h.done_abuf, h.unlocked_idle_fresh, h.config, h.pending⟩

/-- A new RATE_BYTES is written only while ABUF is empty, so ABUF stays below it. -/
theorem inv_setConfig (h : k.Inv) (hb : k.busy = false) (hl : k.locked = false) {r u : Byte} {o : BitVec 9}
    (hc : configLegal r u o = true) : (k.setConfig r u o).Inv := by
  have hlegal := (configLegal_iff r u o).mp hc
  have habuf : k.abuf = [] := (h.unlocked_idle_fresh hl hb).2.1
  refine ⟨h.busy_iff_pend, ?_, h.done_abuf, h.unlocked_idle_fresh, hlegal, ?_⟩
  · rw [Kse.setConfig_abuf, habuf]
    exact hlegal.1.1
  · intro p hp
    rw [Kse.setConfig_pend, h.pend_eq_none hb] at hp
    cases hp

theorem inv_setLocked (h : k.Inv) (hb : k.busy = false) : (k.setLocked true).Inv := by
  refine ⟨h.busy_iff_pend, h.abuf_lt_rate, h.done_abuf, fun hl => (nomatch hl), h.config, ?_⟩
  intro p hp
  rw [Kse.setLocked_pend, h.pend_eq_none hb] at hp
  cases hp

theorem inv_setPend (h : k.Inv) {op : PendOp} {bytes : List Byte} (hp : k.PendLegal ⟨op, bytes⟩) :
    (k.setPend op bytes).Inv := by
  refine ⟨⟨fun _ => Option.some_ne_none _, fun _ => rfl⟩, h.abuf_lt_rate, h.done_abuf, fun _ hb => (nomatch hb),
    h.config, ?_⟩
  rintro p ⟨⟩
  exact hp

theorem stagedBytes_length (k : Kse) (n : Nat) : (k.stagedBytes n).length = n := by
  rw [Kse.stagedBytes, List.length_map, List.length_range]

theorem inv_acceptReset (h : k.Inv) : k.acceptReset.Inv := inv_setPend (inv_setErr h .none) rfl

theorem inv_acceptPermute (h : k.Inv) (hb : k.busy = false) : k.acceptPermute.Inv :=
  inv_setPend (inv_setLocked h hb) ⟨rfl, rfl⟩

theorem inv_acceptAbsorb (h : k.Inv) (hb : k.busy = false) (hd : k.done = false) {n : Nat} (hn : n ≤ 8) :
    (k.acceptAbsorb n).Inv :=
  inv_setPend (inv_setLocked h hb) ⟨(stagedBytes_length k n).trans_le hn, rfl, hd⟩

theorem inv_acceptFinalize (h : k.Inv) (hb : k.busy = false) (hd : k.done = false) {n : Nat} (hn : n ≤ 8) :
    (k.acceptFinalize n).Inv :=
  inv_setPend (inv_setLocked h hb) ⟨(stagedBytes_length k n).trans_le hn, rfl, hd⟩

/-- Whatever an access does to the KSE keeps the invariant. -/
theorem inv_effect (h : k.Inv) (i : Instr) : (k.effect i).Inv := by
  rcases effect_cases k i with he | ⟨e, he⟩ | he | ⟨hb, hl, r, u, o, hc, he⟩ | ⟨a, b, he⟩ | ⟨d, he⟩ | ⟨d, he⟩ |
    ⟨hb, he⟩ | ⟨hb, he⟩ | ⟨hb, hd, n, hn, he | he⟩
  · rw [he]
    exact h
  · rw [he]
    exact inv_recordErr h e
  · rw [he]
    exact inv_setErr h .none
  · rw [he]
    exact inv_setConfig h hb hl hc
  · rw [he]
    exact inv_setIrqEn h a b
  · rw [he]
    exact inv_setDinLo h d
  · rw [he]
    exact inv_setDinHi h d
  · rw [he]
    exact inv_acceptReset h
  · rw [he]
    exact inv_acceptPermute h hb
  · rw [he]
    exact inv_acceptAbsorb h hb hd hn
  · rw [he]
    exact inv_acceptFinalize h hb hd hn

end HostUpdates

/-! ### The completions keep it -/

section Completions

variable {k : Kse}

/-- With LOCKED set, a retired command leaves nothing to prove about a fresh sponge. -/
theorem inv_clearPend (habuf : k.abuf.length < k.rateBytes.toNat) (hdone : k.done = true → k.abuf = [])
    (hl : k.locked = true) (hc : k.ConfigLegal) : k.clearPend.Inv where
  busy_iff_pend := ⟨fun h => (nomatch h), fun h => absurd rfl h⟩
  abuf_lt_rate := habuf
  done_abuf := hdone
  unlocked_idle_fresh := fun h => absurd hl (ne_true_of_eq_false h)
  config := hc
  pending := fun _ h => nomatch h

theorem inv_completeReset (h : k.Inv) : k.completeReset.Inv where
  busy_iff_pend := ⟨fun hb => (nomatch hb), fun hp => absurd rfl hp⟩
  abuf_lt_rate := h.config.1.1
  done_abuf := fun _ => rfl
  unlocked_idle_fresh := fun _ _ => ⟨rfl, rfl, rfl, rfl, rfl⟩
  config := h.config
  pending := fun _ hp => nomatch hp

theorem inv_completePermute (h : k.Inv) (hl : k.locked = true) : k.completePermute.Inv :=
  inv_clearPend h.abuf_lt_rate h.done_abuf hl h.config

theorem inv_completeAbsorb (h : k.Inv) (hl : k.locked = true) (hd : k.done = false) (bytes : List Byte) :
    (k.completeAbsorb bytes).Inv := by
  have habuf := absorbBytes_abuf_lt bytes h.abuf_lt_rate
  obtain ⟨S, m, c, hs⟩ := spongeOf_absorbBytes bytes k
  rw [Kse.completeAbsorb]
  rw [hs] at habuf ⊢
  exact inv_clearPend habuf (fun hd' => absurd hd' (ne_true_of_eq_false hd)) hl h.config

/-- Squeezing permutes S and leaves ABUF. -/
theorem squeezeLoop_abuf (fuel : Nat) (out : List Byte) (k : Kse) : (squeezeLoop fuel out k).2.abuf = k.abuf := by
  induction fuel generalizing out k with
  | zero => rfl
  | succ fuel ih =>
    rw [squeezeLoop]
    split
    · rfl
    · exact ih _ _

theorem squeeze_absorbPadded_abuf (k : Kse) (bytes : List Byte) : (k.absorbPadded bytes).squeeze.2.abuf = [] :=
  squeezeLoop_abuf _ _ _

theorem inv_completeFinalize (h : k.Inv) (hl : k.locked = true) (bytes : List Byte) :
    (k.completeFinalize bytes).Inv := by
  have habuf := squeeze_absorbPadded_abuf k bytes
  obtain ⟨S, m, c, hs⟩ := (spongeOf_absorbPadded k bytes).trans (spongeOf_squeeze _)
  rw [Kse.completeFinalize]
  rw [hs] at habuf ⊢
  obtain rfl : m = [] := habuf
  exact inv_clearPend h.config.1.1 (fun _ => rfl) hl h.config

theorem inv_complete (h : k.Inv) {p : Pending} (hp : k.PendLegal p) : (k.complete p).Inv := by
  obtain ⟨op, bytes⟩ := p
  cases op with
  | reset => exact inv_completeReset h
  | absorb =>
    obtain ⟨-, hl, hd⟩ := hp
    exact inv_completeAbsorb h hl hd bytes
  | finalize =>
    obtain ⟨-, hl, -⟩ := hp
    exact inv_completeFinalize h hl bytes
  | permute =>
    obtain ⟨-, hl⟩ := hp
    exact inv_completePermute h hl

theorem inv_engine (h : k.Inv) : k.engine.Inv := by
  cases hp : k.pend with
  | none =>
    rw [engine_of_none hp]
    exact h
  | some p =>
    rw [engine_of_some hp]
    exact inv_complete h (h.pending p hp)

end Completions

/-- Settles O40: the step is the engine's, a reset, none of the KSE's, or the effect of one instruction; while
`rst_n` = 0 no instruction runs, and the engine has nothing to do. -/
theorem everyStepKeepsTheInvariant : Obligations.EveryStepKeepsTheInvariant := by
  intro s t h hstep
  obtain ⟨-, htemps, hk⟩ := step_cases hstep
  refine ⟨?kse, ?held, htemps h.temps⟩
  case kse =>
    rcases hk with ⟨hk, -⟩ | hk | ⟨hk, -⟩ | ⟨-, -, i, hk⟩
    · rw [hk]
      exact inv_engine h.kse
    · rw [hk]
      exact reset_inv
    · rw [hk]
      exact h.kse
    · rw [hk]
      exact inv_effect h.kse i
  case held =>
    intro ht
    rcases hk with ⟨hk, hr⟩ | hk | ⟨hk, hr⟩ | ⟨-, hr, -⟩
    · rw [hk, h.held (hr ▸ ht)]
      rfl
    · exact hk
    · rw [hk, h.held (hr ▸ ht)]
    · exact absurd hr (ne_true_of_eq_false ht)

end Sys2Proof.Machine
end

section
/-! The bus reads (20_memory.md R60, R70, R71, R72, R79): what each of them answers, and the layout of the words. -/

namespace Sys2Proof.Machine

/-! ### Exec of the reads -/

section ReadEquations

variable (s : State)

theorem exec_rdConfig : exec .rdConfig s = .next (s.afterRead s.kse.configWord) := respondRead_eq_afterRead _ s

theorem exec_rdCmd : exec .rdCmd s = .next (s.afterRead 0) := respondRead_eq_afterRead _ s

theorem exec_rdIrqEn : exec .rdIrqEn s = .next (s.afterRead s.kse.irqEnWord) := respondRead_eq_afterRead _ s

theorem exec_rdDinLo : exec .rdDinLo s = .next (s.afterRead s.kse.dinLo) := respondRead_eq_afterRead _ s

theorem exec_rdDinHi : exec .rdDinHi s = .next (s.afterRead s.kse.dinHi) := respondRead_eq_afterRead _ s

variable {s}

theorem exec_rdStatus_of_idle (hb : s.kse.busy = false) :
    exec .rdStatus s = .next (s.afterRead (s.kse.statusWord s.kse.abufCount)) := if_neg (ne_true_of_eq_false hb)

theorem exec_rdStatus_of_busy (hb : s.kse.busy = true) :
    exec .rdStatus s = .next (s.afterFreeRead fun n => s.kse.statusWord (Config.freeAbufCount n)) := if_pos hb

theorem exec_rdPermCount_of_idle (hb : s.kse.busy = false) :
    exec .rdPermCount s = .next (s.afterRead s.kse.permCount) := if_neg (ne_true_of_eq_false hb)

theorem exec_rdPermCount_of_busy (hb : s.kse.busy = true) :
    exec .rdPermCount s = .next (s.afterFreeRead Config.freePermCount) := if_pos hb

/-- A STATE word is exact with BUSY = 0, and beyond word 49. -/
theorem exec_rdState_of_exact {w : BitVec 6} (h : s.kse.busy = true → 50 ≤ w.toNat) :
    exec (.rdState w) s = .next (s.afterRead (stateWord s.kse.lanes w)) :=
  if_neg fun ⟨hb, hw⟩ => absurd (h hb) (Nat.not_le_of_lt hw)

theorem exec_rdState_of_busy {w : BitVec 6} (hb : s.kse.busy = true) (hw : w.toNat < 50) :
    exec (.rdState w) s = .next (s.afterFreeRead Config.freeStateWord) := if_pos ⟨hb, hw⟩

theorem exec_rdDout_of_exact (w : BitVec 6) (h : s.kse.doutUnspecified = false) :
    exec (.rdDout w) s = .next (s.afterRead (doutWord s.kse.dout w)) := if_neg (ne_true_of_eq_false h)

theorem exec_rdDout_of_unspecified (w : BitVec 6) (h : s.kse.doutUnspecified = true) :
    exec (.rdDout w) s = .next (s.afterFreeRead Config.freeDoutWord) := if_pos h

end ReadEquations

theorem doutUnspecified_of_idle {k : Kse} (hb : k.busy = false) : k.doutUnspecified = false := by
  rw [Kse.doutUnspecified, hb, Bool.false_and]

/-- A DOUT read is unspecified while FINALIZE or RESET is pending (R71). -/
theorem doutUnspecified_iff (k : Kse) :
    k.doutUnspecified = true ↔ k.busy = true ∧ ∃ p, k.pend = some p ∧ (p.op = .finalize ∨ p.op = .reset) := by
  rw [Kse.doutUnspecified, Bool.and_eq_true_iff]
  refine and_congr_right fun _ => ?_
  rcases k.pend with _ | ⟨op, bytes⟩
  · simp
  · cases op <;> simp

/-! ### Every read -/

/-- With BUSY = 0 the answer of a read is a function of the KSE. -/
theorem busRead_of_idle {i : Instr} (hi : isBusRead i = true) {k : Kse} (hb : k.busy = false) :
    ∃ w, ∀ s : State, s.kse = k → exec i s = .next (s.afterRead w) := by
  cases i with
  | rdId => exact ⟨_, fun s _ => exec_rdId s⟩
  | rdHwcfg => exact ⟨_, fun s _ => exec_rdHwcfg s⟩
  | rdConfig => exact ⟨_, fun s hs => hs ▸ exec_rdConfig s⟩
  | rdCmd => exact ⟨_, fun s _ => exec_rdCmd s⟩
  | rdStatus => exact ⟨_, fun s hs => hs ▸ exec_rdStatus_of_idle (hs ▸ hb)⟩
  | rdIrqEn => exact ⟨_, fun s hs => hs ▸ exec_rdIrqEn s⟩
  | rdDinLo => exact ⟨_, fun s hs => hs ▸ exec_rdDinLo s⟩
  | rdDinHi => exact ⟨_, fun s hs => hs ▸ exec_rdDinHi s⟩
  | rdPermCount => exact ⟨_, fun s hs => hs ▸ exec_rdPermCount_of_idle (hs ▸ hb)⟩
  | rdState w => exact ⟨_, fun s hs => hs ▸ exec_rdState_of_exact fun h => absurd (hs ▸ h) (ne_true_of_eq_false hb)⟩
  | rdDout w => exact ⟨_, fun s hs => hs ▸ exec_rdDout_of_exact w (hs ▸ doutUnspecified_of_idle hb)⟩
  | _ => cases hi

/-- A read answers an exact word, or the unspecified word drawn now. -/
theorem busRead_answers {i : Instr} (hi : isBusRead i = true) (s : State) :
    (∃ w, exec i s = .next (s.afterRead w)) ∨ ∃ w, exec i s = .next (s.afterFreeRead w) := by
  by_cases hb : s.kse.busy = true
  case neg =>
    obtain ⟨w, hw⟩ := busRead_of_idle hi (k := s.kse) (by simpa using hb)
    exact .inl ⟨w, hw s rfl⟩
  case pos =>
    cases i with
    | rdStatus => exact .inr ⟨_, exec_rdStatus_of_busy hb⟩
    | rdPermCount => exact .inr ⟨_, exec_rdPermCount_of_busy hb⟩
    | rdState w =>
      by_cases hw : w.toNat < 50
      · exact .inr ⟨_, exec_rdState_of_busy hb hw⟩
      · exact .inl ⟨_, exec_rdState_of_exact fun _ => Nat.le_of_not_lt hw⟩
    | rdDout w =>
      by_cases hd : s.kse.doutUnspecified = true
      · exact .inr ⟨_, exec_rdDout_of_unspecified w hd⟩
      · exact .inl ⟨_, exec_rdDout_of_exact w (by simpa using hd)⟩
    | rdId | rdHwcfg | rdConfig | rdCmd | rdIrqEn | rdDinLo | rdDinHi => exact .inl ⟨_, rfl⟩
    | _ => cases hi

/-- Settles O6: with BUSY = 0 the first and the repeated read answer the same function of the same KSE. -/
theorem readsChangeNoState : Obligations.ReadsChangeNoState := by
  intro i s hi
  by_cases hb : s.kse.busy = false
  case pos =>
    obtain ⟨w, hw⟩ := busRead_of_idle hi hb
    exact ⟨w, s.draws, hw s rfl, fun _ => ⟨rfl, hw (s.afterRead w) rfl⟩⟩
  case neg =>
    rcases busRead_answers hi s with ⟨w, hw⟩ | ⟨w, hw⟩
    · exact ⟨w, s.draws, hw, fun h => absurd h hb⟩
    · exact ⟨w s.draws, s.draws + 1, hw, fun h => absurd h hb⟩

/-! ### The layout of the register words -/

/-- The lowest of the flags appended to a word. -/
theorem getLsbD_append_ofBool_zero {n : Nat} (x : BitVec n) (b : Bool) : (x ++ BitVec.ofBool b).getLsbD 0 = b := by
  rw [BitVec.getLsbD_append, if_pos Nat.one_pos, BitVec.getLsbD_ofBool, decide_eq_true rfl, Bool.true_and]

theorem getLsbD_append_ofBool_succ {n : Nat} (x : BitVec n) (b : Bool) (i : Nat) :
    (x ++ BitVec.ofBool b).getLsbD (i + 1) = x.getLsbD i := by
  rw [BitVec.getLsbD_append, if_neg (by omega), Nat.add_sub_cancel]

section Layout

variable (k : Kse)

theorem configWord_rateBytes : k.configWord.extractLsb' 0 8 = k.rateBytes := by
  rw [Kse.configWord, BitVec.extractLsb'_append_eq_right]

theorem configWord_suffix : k.configWord.extractLsb' 8 8 = k.suffix := by
  rw [Kse.configWord, BitVec.extractLsb'_append_eq_of_le (Nat.le_refl 8), BitVec.extractLsb'_append_eq_right]

theorem configWord_outBytes : k.configWord.extractLsb' 16 9 = k.outBytes := by
  rw [Kse.configWord, BitVec.extractLsb'_append_eq_of_le (by decide), BitVec.extractLsb'_append_eq_of_le (by decide),
    BitVec.extractLsb'_append_eq_right]

theorem configWord_reserved : k.configWord.extractLsb' 25 7 = 0 := by
  rw [Kse.configWord, BitVec.extractLsb'_append_eq_of_le (by decide), BitVec.extractLsb'_append_eq_of_le (by decide),
    BitVec.extractLsb'_append_eq_left]

variable (a : Byte)

theorem statusWord_busy : (k.statusWord a).getLsbD 0 = k.busy := by
  rw [Kse.statusWord, getLsbD_append_ofBool_zero]

theorem statusWord_done : (k.statusWord a).getLsbD 1 = k.done := by
  rw [Kse.statusWord, getLsbD_append_ofBool_succ, getLsbD_append_ofBool_zero]

theorem statusWord_locked : (k.statusWord a).getLsbD 2 = k.locked := by
  rw [Kse.statusWord, getLsbD_append_ofBool_succ, getLsbD_append_ofBool_succ, getLsbD_append_ofBool_zero]

/-- The fields of STATUS above its three flags. -/
theorem statusWord_above_flags (start len : Nat) (h : 3 ≤ start) :
    (k.statusWord a).extractLsb' start len =
      ((0 : Byte) ++ k.err.code ++ a ++ (0 : BitVec 5)).extractLsb' (start - 3) len := by
  rw [Kse.statusWord, BitVec.extractLsb'_append_eq_of_le (by omega), BitVec.extractLsb'_append_eq_of_le (by omega),
    BitVec.extractLsb'_append_eq_of_le (by omega), Nat.sub_sub, Nat.sub_sub]

theorem statusWord_reserved_low : (k.statusWord a).extractLsb' 3 5 = 0 := by
  rw [statusWord_above_flags k a 3 5 (by decide), BitVec.extractLsb'_append_eq_right]

theorem statusWord_abufCount : (k.statusWord a).extractLsb' 8 8 = a := by
  rw [statusWord_above_flags k a 8 8 (by decide), BitVec.extractLsb'_append_eq_of_le (by decide),
    BitVec.extractLsb'_append_eq_right]

theorem statusWord_err : (k.statusWord a).extractLsb' 16 8 = k.err.code := by
  rw [statusWord_above_flags k a 16 8 (by decide), BitVec.extractLsb'_append_eq_of_le (by decide),
    BitVec.extractLsb'_append_eq_of_le (by decide), BitVec.extractLsb'_append_eq_right]

theorem statusWord_reserved_high : (k.statusWord a).extractLsb' 24 8 = 0 := by
  rw [statusWord_above_flags k a 24 8 (by decide), BitVec.extractLsb'_append_eq_of_le (by decide),
    BitVec.extractLsb'_append_eq_of_le (by decide), BitVec.extractLsb'_append_eq_left]

theorem irqEnWord_doneIe : k.irqEnWord.getLsbD 0 = k.doneIe := by
  rw [Kse.irqEnWord, getLsbD_append_ofBool_zero]

theorem irqEnWord_errIe : k.irqEnWord.getLsbD 1 = k.errIe := by
  rw [Kse.irqEnWord, getLsbD_append_ofBool_succ, getLsbD_append_ofBool_zero]

theorem irqEnWord_reserved : k.irqEnWord.extractLsb' 2 30 = 0 := by
  rw [Kse.irqEnWord, BitVec.extractLsb'_append_eq_of_le (by decide), BitVec.extractLsb'_append_eq_left]

end Layout

/-- Settles O9, field by field. -/
theorem configReadLayout : Obligations.ConfigReadLayout := by
  intro s
  exact ⟨_, exec_rdConfig s, configWord_rateBytes _, configWord_suffix _, configWord_outBytes _, configWord_reserved _⟩

/-- Settles O10: one word with the exact or the drawn byte as its ABUF_COUNT. -/
theorem statusReadLayout : Obligations.StatusReadLayout := by
  intro s
  have hcode : s.kse.err.code.toNat =
      (match s.kse.err with
        | .none => 0 | .illegalCmd => 1 | .busyErr => 2 | .sequence => 3 | .cfgLocked => 4 | .cfgInvalid => 5) := by
    cases s.kse.err <;> rfl
  have hfields (a : Byte) := And.intro (statusWord_busy s.kse a) <| And.intro (statusWord_done s.kse a) <|
    And.intro (statusWord_locked s.kse a) <| And.intro (statusWord_reserved_low s.kse a) <|
    And.intro (statusWord_reserved_high s.kse a) ((congrArg BitVec.toNat (statusWord_err s.kse a)).trans hcode)
  by_cases hb : s.kse.busy = true
  case pos =>
    obtain ⟨h0, h1, h2, h3, h24, h16⟩ := hfields (Config.freeAbufCount s.draws)
    exact ⟨_, h0, h1, h2, h3, h24, h16, fun h => absurd hb (ne_true_of_eq_false h),
      fun _ => ⟨statusWord_abufCount _ _, exec_rdStatus_of_busy hb⟩⟩
  case neg =>
    obtain ⟨h0, h1, h2, h3, h24, h16⟩ := hfields s.kse.abufCount
    exact ⟨_, h0, h1, h2, h3, h24, h16, fun h => ⟨statusWord_abufCount _ _, exec_rdStatus_of_idle h⟩,
      fun h => absurd h hb⟩

/-- Settles O11. -/
theorem plainRegisterReads : Obligations.PlainRegisterReads := by
  intro s
  exact ⟨exec_rdCmd s, exec_rdDinLo s, exec_rdDinHi s, _, exec_rdIrqEn s, irqEnWord_doneIe _, irqEnWord_errIe _,
    irqEnWord_reserved _⟩

/-- Settles O12. -/
theorem permCountRead : Obligations.PermCountRead := by
  intro s
  exact ⟨exec_rdPermCount_of_idle, exec_rdPermCount_of_busy⟩

/-- Settles O37: the three reads evaluate at the reset values. -/
theorem stateAfterReset : Obligations.StateAfterReset := by
  refine ⟨rfl, rfl, rfl, rfl, rfl, ?status, ?config, ?irqEn⟩
  case status =>
    rw [exec_rdStatus_of_idle rfl]
    rfl
  case config =>
    rw [exec_rdConfig]
    rfl
  case irqEn =>
    rw [exec_rdIrqEn]
    rfl

/-! ### The windows -/

/-- Word `w` of a window is read at its base plus 4w (R70, R71). -/
theorem windowReadOp {base w n : Nat} (hbase : base < 16) (hw : w < 64) (hn : n = 256 * base + 4 * w) :
    BitVec.ofNat 13 n = busOp false (windowOffset (BitVec.ofNat 4 base) (BitVec.ofNat 6 w)) := by
  apply BitVec.eq_of_toNat_eq
  rw [busOp_toNat, windowOffset_toNat, BitVec.toNat_ofNat, BitVec.toNat_ofNat, BitVec.toNat_ofNat, Bool.toNat_false]
  omega

theorem decodeBus_stateOffset {w n : Nat} (hw : w < 64) (hn : n = 0x100 + 4 * w) :
    decodeBus (BitVec.ofNat 13 n) 0 = .ok (.rdState (BitVec.ofNat 6 w)) := by
  rw [windowReadOp (base := 1) (by decide) hw hn]
  exact decodeBus_rdState _

theorem decodeBus_doutOffset {w n : Nat} (hw : w < 64) (hn : n = 0x200 + 4 * w) :
    decodeBus (BitVec.ofNat 13 n) 0 = .ok (.rdDout (BitVec.ofNat 6 w)) := by
  rw [windowReadOp (base := 2) (by decide) hw hn]
  exact decodeBus_rdDout _

theorem laneAt_of_lt (S : Lanes) {i : Nat} (h : i < 25) : laneAt S i = S[i] := dif_pos h

theorem stateWord_beyond (S : Lanes) {w : BitVec 6} (h : 50 ≤ w.toNat) : stateWord S w = 0 := if_pos h

theorem stateWord_low (S : Lanes) {i : Nat} (h : i < 25) :
    stateWord S (BitVec.ofNat 6 (2 * i)) = S[i].extractLsb' 0 32 := by
  have hw : (BitVec.ofNat 6 (2 * i)).toNat = 2 * i := by
    rw [BitVec.toNat_ofNat]
    omega
  rw [stateWord, hw, if_neg (by omega), if_pos (by omega), show 2 * i / 2 = i by omega, laneAt_of_lt S h]

theorem stateWord_high (S : Lanes) {i : Nat} (h : i < 25) :
    stateWord S (BitVec.ofNat 6 (2 * i + 1)) = S[i].extractLsb' 32 32 := by
  have hw : (BitVec.ofNat 6 (2 * i + 1)).toNat = 2 * i + 1 := by
    rw [BitVec.toNat_ofNat]
    omega
  rw [stateWord, hw, if_neg (by omega), if_neg (by omega), show (2 * i + 1) / 2 = i by omega, laneAt_of_lt S h]

/-- Settles O13. -/
theorem stateWindowRead : Obligations.StateWindowRead := by
  refine ⟨fun w => ?_, fun s => ⟨fun i hi => ⟨?_, ?_, fun hb => ⟨?_, ?_⟩⟩, fun w hw => ?_, fun w hw hb => ?_⟩⟩
  · rw [decodeBus_stateOffset w.isLt rfl, BitVec.ofNat_toNat, BitVec.setWidth_eq]
  · exact decodeBus_stateOffset (by omega) (by omega)
  · exact decodeBus_stateOffset (by omega) (by omega)
  · rw [exec_rdState_of_exact fun h => absurd h (ne_true_of_eq_false hb), stateWord_low _ hi]
  · rw [exec_rdState_of_exact fun h => absurd h (ne_true_of_eq_false hb), stateWord_high _ hi]
  · rw [exec_rdState_of_exact fun _ => hw, stateWord_beyond _ hw]
  · exact exec_rdState_of_busy hb hw

/-- Byte j of four bytes in little-endian order. -/
theorem extractLsb'_of_four_bytes (a b c d : Byte) (j : Nat) (hj : j < 4) :
    (d ++ c ++ b ++ a).extractLsb' (8 * j) 8 = [a, b, c, d][j] := by
  interval_cases j
  · exact BitVec.extractLsb'_append_eq_right
  · rw [BitVec.extractLsb'_append_eq_of_le (by decide)]
    exact BitVec.extractLsb'_append_eq_right
  · rw [BitVec.extractLsb'_append_eq_of_le (by decide), BitVec.extractLsb'_append_eq_of_le (by decide)]
    exact BitVec.extractLsb'_append_eq_right
  · rw [BitVec.extractLsb'_append_eq_of_le (by decide), BitVec.extractLsb'_append_eq_of_le (by decide)]
    exact BitVec.extractLsb'_append_eq_left

theorem doutWord_byte (v : Vector Byte 256) (w : BitVec 6) (j : Nat) (hj : j < 4) :
    (doutWord v w).extractLsb' (8 * j) 8 = v[4 * w.toNat + j] := by
  rw [doutWord, extractLsb'_of_four_bytes _ _ _ _ j hj]
  interval_cases j <;> rfl

/-- Settles O14. -/
theorem doutWindowRead : Obligations.DoutWindowRead := by
  intro s w
  simp only [← doutUnspecified_iff]
  refine ⟨?_, exec_rdDout_of_unspecified w, fun h => ⟨_, exec_rdDout_of_exact w (by simpa using h), ?_⟩⟩
  · rw [decodeBus_doutOffset w.isLt rfl, BitVec.ofNat_toNat, BitVec.setWidth_eq]
  · exact doutWord_byte _ w

end Sys2Proof.Machine
end

section
/-! The commands (30_encoding.md R104, R105): their checks, what each of them changes and leaves unchanged, and the
two spellings of a CMD write. -/

namespace Sys2Proof.Machine

/-! ### The checks of a command, one equation per outcome -/

section SubmitEquations

variable {k : Kse} {illegal sequenced : Bool} {accept : Kse → Kse}

theorem submit_of_busy (hb : k.busy = true) : k.submit illegal sequenced accept = k.recordErr .busyErr := if_pos hb

theorem submit_of_illegal (hb : k.busy = false) : k.submit true sequenced accept = k.recordErr .illegalCmd := by
  simp [Kse.submit, hb]

theorem submit_of_done (hb : k.busy = false) (hd : k.done = true) :
    k.submit false true accept = k.recordErr .sequence := by
  simp [Kse.submit, hb, hd]

/-- NOP, RESET and PERMUTE are accepted whatever DONE is. -/
theorem submit_unsequenced (hb : k.busy = false) : k.submit false false accept = accept k := by
  simp [Kse.submit, hb]

theorem submit_sequenced (hb : k.busy = false) (hd : k.done = false) : k.submit false true accept = accept k := by
  simp [Kse.submit, hb, hd]

end SubmitEquations

/-! ### A CMD write of a command's word -/

section CommandWords

variable (k : Kse)

theorem commandWrite_nop : k.commandWrite (commandWord 0x0 0) = k.effect .nop := by
  simp [Kse.commandWrite, Kse.effect, Kse.submit, cmdRsv_commandWord, cmdOpc_commandWord, cmdLen_commandWord]

theorem commandWrite_reset : k.commandWrite (commandWord 0x1 0) = k.effect .reset := by
  simp [Kse.commandWrite, Kse.effect, Kse.submit, cmdRsv_commandWord, cmdOpc_commandWord, cmdLen_commandWord]

theorem commandWrite_permute : k.commandWrite (commandWord 0x4 0) = k.effect .permute := by
  simp [Kse.commandWrite, Kse.effect, Kse.submit, cmdRsv_commandWord, cmdOpc_commandWord, cmdLen_commandWord]

theorem not_eight_lt {n : BitVec 4} (hn : n.toNat ≤ 8) : ¬ 8#4 < n := Nat.not_lt_of_le hn

theorem commandWrite_absorb {n : BitVec 4} (hn : n.toNat ≤ 8) :
    k.commandWrite (commandWord 0x2 n) = k.effect (.absorb n) := by
  simp [Kse.commandWrite, Kse.effect, Kse.submit, cmdRsv_commandWord, cmdOpc_commandWord, cmdLen_commandWord,
    not_eight_lt hn, Nat.not_lt_of_le hn]

theorem commandWrite_finalize {n : BitVec 4} (hn : n.toNat ≤ 8) :
    k.commandWrite (commandWord 0x3 n) = k.effect (.finalize n) := by
  simp [Kse.commandWrite, Kse.effect, Kse.submit, cmdRsv_commandWord, cmdOpc_commandWord, cmdLen_commandWord,
    not_eight_lt hn, Nat.not_lt_of_le hn]

/-- A word that encodes an instruction has that instruction's effect when it is written to CMD. -/
theorem commandWrite_of_encode {i : Instr} {d : Word} (hi : WellFormed i = true) (he : encode i = .cmd d) :
    isCommand i = true ∧ k.commandWrite d = k.effect i := by
  cases i with
  | nop =>
    cases he
    exact ⟨rfl, commandWrite_nop k⟩
  | reset =>
    cases he
    exact ⟨rfl, commandWrite_reset k⟩
  | permute =>
    cases he
    exact ⟨rfl, commandWrite_permute k⟩
  | absorb n =>
    cases he
    exact ⟨rfl, commandWrite_absorb k (of_decide_eq_true hi)⟩
  | finalize n =>
    cases he
    exact ⟨rfl, commandWrite_finalize k (of_decide_eq_true hi)⟩
  | _ => cases he

theorem commandWrite_of_busy (d : Word) (hb : k.busy = true) : k.commandWrite d = k.recordErr .busyErr := if_pos hb

/-- A word that is no command records an error (R104, R235). -/
theorem commandWrite_of_decode_error {d : Word} {e : DecodeError} (he : decodeCommand d = .error e) :
    k.commandWrite d = k.recordErr (if k.busy then .busyErr else .illegalCmd) := by
  by_cases hb : k.busy = true
  · rw [if_pos hb, commandWrite_of_busy k d hb]
  · rw [if_neg hb, commandWrite_of_illegal (by simpa using hb) ((exists_decodeCommand_error_iff d).mp ⟨e, he⟩)]

end CommandWords

/-- A CMD write answers OKAY and has its instruction's effect. -/
theorem exec_of_isCommand {i : Instr} (hi : isCommand i = true) (s : State) :
    exec i s = .next (s.afterWrite (s.kse.effect i)) := by
  cases i with
  | nop | reset | absorb n | finalize n | permute | wrCmd d => rfl
  | _ => cases hi

/-- A CMD write of an instruction's word does what the instruction does. -/
theorem exec_wrCmd_of_encode {i : Instr} {d : Word} {s : State} {k : Kse} (hi : WellFormed i = true)
    (he : encode i = .cmd d) (hk : s.kse.effect i = k) : exec (.wrCmd d) s = .next (s.afterWrite k) := by
  rw [exec_wrCmd, (commandWrite_of_encode s.kse hi he).2, hk]

/-- Settles O19: a legal word is the encoding of its command, any other word is in one of the classes of R106. -/
theorem wrCmdActsAsItsCommand : Obligations.WrCmdActsAsItsCommand := by
  intro s d
  refine ⟨fun i hi => ?_, fun e he => ?_⟩
  · obtain ⟨hw, he⟩ := encode_of_decodeCommand hi
    rw [exec_wrCmd_of_encode hw he rfl, exec_of_isCommand (commandWrite_of_encode s.kse hw he).1]
  · rw [exec_wrCmd, commandWrite_of_decode_error s.kse he]

/-! ### Acceptance -/

section Acceptance

variable {k : Kse}

theorem effect_nop_of_idle (hb : k.busy = false) : k.effect .nop = k := submit_unsequenced hb

theorem effect_reset_of_idle (hb : k.busy = false) : k.effect .reset = k.acceptReset := submit_unsequenced hb

theorem effect_permute_of_idle (hb : k.busy = false) : k.effect .permute = k.acceptPermute := submit_unsequenced hb

theorem effect_absorb_of_idle (hb : k.busy = false) (hd : k.done = false) {n : BitVec 4} (hn : n.toNat ≤ 8) :
    k.effect (.absorb n) = k.acceptAbsorb n.toNat := by
  rw [Kse.effect, decide_eq_false (Nat.not_lt_of_le hn), submit_sequenced hb hd]

theorem effect_finalize_of_idle (hb : k.busy = false) (hd : k.done = false) {n : BitVec 4} (hn : n.toNat ≤ 8) :
    k.effect (.finalize n) = k.acceptFinalize n.toNat := by
  rw [Kse.effect, decide_eq_false (Nat.not_lt_of_le hn), submit_sequenced hb hd]

end Acceptance

/-- Settles O20: each word is the encoding of its command, which is accepted. -/
theorem cmdWriteAcceptsALegalWord : Obligations.CmdWriteAcceptsALegalWord := by
  intro s hb
  refine ⟨?nop, ?reset, ?permute, fun n hn hd => ⟨?absorb, ?finalize⟩⟩
  case nop => exact exec_wrCmd_of_encode (i := .nop) rfl rfl (effect_nop_of_idle hb)
  case reset => exact exec_wrCmd_of_encode (i := .reset) rfl rfl (effect_reset_of_idle hb)
  case permute => exact exec_wrCmd_of_encode (i := .permute) rfl rfl (effect_permute_of_idle hb)
  case absorb =>
    exact exec_wrCmd_of_encode (i := .absorb n) (decide_eq_true hn) rfl (effect_absorb_of_idle hb hd hn)
  case finalize =>
    exact exec_wrCmd_of_encode (i := .finalize n) (decide_eq_true hn) rfl (effect_finalize_of_idle hb hd hn)

/-- Settles O21. -/
theorem nopChangesNothing : Obligations.NopChangesNothing := by
  intro s hb
  rw [exec_of_isCommand rfl, effect_nop_of_idle hb]

/-- Settles O22: the acceptance of R105, then the completion of R141. -/
theorem permuteAcceptedAndCompleted : Obligations.PermuteAcceptedAndCompleted := by
  intro s hb
  refine ⟨s.afterWrite s.kse.acceptPermute, ?_, rfl, ?_⟩
  · rw [exec_of_isCommand rfl, effect_permute_of_idle hb]
  · rfl

/-- Settles O23: the acceptance of R105, then the completion of R184. -/
theorem resetAcceptedAndCompleted : Obligations.ResetAcceptedAndCompleted := by
  intro s
  refine ⟨fun hb => ?_, fun b hp => ?_⟩
  · rw [exec_of_isCommand rfl, effect_reset_of_idle hb]
    rfl
  · rw [engineStep_kse, engine_of_some hp]
    rfl

/-- Byte `i` of DIN is byte `i` of DIN_LO, or byte `i - 4` of DIN_HI (R102). -/
theorem dinByte_eq (k : Kse) {i : Nat} (hi : i < 8) :
    k.dinByte i = if i < 4 then k.dinLo.extractLsb' (8 * i) 8 else k.dinHi.extractLsb' (8 * (i - 4)) 8 := by
  rw [Kse.dinByte, Kse.din]
  split
  · rw [BitVec.extractLsb'_append_eq_of_add_le (by omega)]
  · rw [BitVec.extractLsb'_append_eq_of_le (by omega), show 8 * i - 32 = 8 * (i - 4) by omega]

theorem stagedBytes_eq (k : Kse) {n : Nat} (hn : n ≤ 8) :
    k.stagedBytes n = (List.range n).map fun i =>
      if i < 4 then k.dinLo.extractLsb' (8 * i) 8 else k.dinHi.extractLsb' (8 * (i - 4)) 8 :=
  List.map_congr_left fun _ hi => dinByte_eq k (Nat.lt_of_lt_of_le (List.mem_range.mp hi) hn)

/-- Settles O24: the checks pass, and the latched bytes are those of the two DIN words. -/
theorem absorbAndFinalizeAccepted : Obligations.AbsorbAndFinalizeAccepted := by
  intro s n hn hb hd staged
  have hstaged : s.kse.stagedBytes n.toNat = staged := stagedBytes_eq s.kse hn
  rw [exec_of_isCommand rfl, exec_of_isCommand rfl, effect_absorb_of_idle hb hd hn, effect_finalize_of_idle hb hd hn,
    ← hstaged]
  exact ⟨rfl, rfl⟩

/-! ### Refusals -/

theorem effect_command_of_busy {k : Kse} (hb : k.busy = true) {i : Instr} (hi : isCommand i = true) :
    k.effect i = k.recordErr .busyErr := by
  cases i with
  | wrCmd d => exact commandWrite_of_busy k d hb
  | nop | reset | absorb n | finalize n | permute =>
    rw [Kse.effect]
    exact submit_of_busy hb
  | _ => cases hi

/-- Settles O28: each clause is one check of R235, reached because those before it pass. -/
theorem commandRefusals : Obligations.CommandRefusals := by
  refine ⟨fun k e => ⟨fun h => recordErr_of_none h e, fun h => recordErr_of_ne h e⟩, fun s => ⟨?busy, ?length, ?done⟩⟩
  case busy =>
    intro i hi hb
    rw [exec_of_isCommand hi, effect_command_of_busy hb hi]
  case length =>
    intro n hb hn
    rw [exec_of_isCommand rfl, exec_of_isCommand rfl, Kse.effect, Kse.effect, decide_eq_true hn, submit_of_illegal hb,
      submit_of_illegal hb]
    exact ⟨rfl, rfl⟩
  case done =>
    intro n hb hn hd
    rw [exec_of_isCommand rfl, exec_of_isCommand rfl, Kse.effect, Kse.effect, decide_eq_false (Nat.not_lt_of_le hn),
      submit_of_done hb hd, submit_of_done hb hd]
    exact ⟨rfl, rfl⟩

/-! ### Frames -/

/-- A KSE that differs from `k` in ERR, LOCKED, BUSY and PEND only. -/
def Kse.CommandFrameOf (k k' : Kse) : Prop :=
  k' = { k with err := k'.err, locked := k'.locked, busy := k'.busy, pend := k'.pend }

theorem commandFrameOf_recordErr (k : Kse) (e : ErrCode) : k.CommandFrameOf (k.recordErr e) := by
  rw [recordErr_eq]
  rfl

theorem commandFrameOf_submit {k : Kse} {accept : Kse → Kse} (ha : k.CommandFrameOf (accept k))
    (illegal sequenced : Bool) : k.CommandFrameOf (k.submit illegal sequenced accept) := by
  rcases submit_cases k illegal sequenced accept with ⟨-, h⟩ | ⟨-, -, h⟩ | ⟨-, -, -, -, h⟩ | ⟨-, -, -, h⟩
  · exact h ▸ commandFrameOf_recordErr k _
  · exact h ▸ commandFrameOf_recordErr k _
  · exact h ▸ commandFrameOf_recordErr k _
  · exact h ▸ ha

theorem commandFrameOf_commandWrite (k : Kse) (d : Word) : k.CommandFrameOf (k.commandWrite d) := by
  rcases commandWrite_cases k d with ⟨e, h⟩ | ⟨-, h | h | h | ⟨-, -, h | h⟩⟩
  · exact h ▸ commandFrameOf_recordErr k e
  all_goals
    rw [h]
    rfl

theorem commandFrameOf_effect (k : Kse) {i : Instr} (hi : isCommand i = true) : k.CommandFrameOf (k.effect i) := by
  cases i with
  | wrCmd d => exact commandFrameOf_commandWrite k d
  | nop | reset | absorb n | finalize n | permute =>
    rw [Kse.effect]
    refine commandFrameOf_submit ?_ _ _
    rfl
  | _ => cases hi

/-- Settles O29. -/
theorem commandFrame : Obligations.CommandFrame := by
  intro i s t hi h
  rw [exec_of_isCommand hi] at h
  cases h
  exact congrArg s.afterWrite (commandFrameOf_effect s.kse hi)

/-- Where an access may write: a CMD write as its frame says, CONFIG, IRQ_EN and DIN by their own write, ERR by an
acknowledgement or a refusal; every other access leaves the KSE. -/
theorem effect_frame (k : Kse) (i : Instr) :
    k.CommandFrameOf (k.effect i) ∨
    (∃ d, i = .wrConfig d ∧ ∃ r u o, k.effect i = k.setConfig r u o) ∨
    (∃ d, i = .wrIrqEn d ∧ ∃ a b, k.effect i = k.setIrqEn a b) ∨
    (∃ d, i = .wrDinLo d ∧ k.effect i = k.setDinLo d) ∨
    (∃ d, i = .wrDinHi d ∧ k.effect i = k.setDinHi d) := by
  cases i with
  | nop | reset | absorb n | finalize n | permute | wrCmd d => exact .inl (commandFrameOf_effect k rfl)
  | wrConfig d =>
    rw [Kse.effect]
    rcases configWrite_cases k d with ⟨-, h⟩ | ⟨-, -, h⟩ | ⟨-, -, -, h⟩ | ⟨-, -, -, h⟩
    · exact .inl (h ▸ commandFrameOf_recordErr k _)
    · exact .inl (h ▸ commandFrameOf_recordErr k _)
    · exact .inl (h ▸ commandFrameOf_recordErr k _)
    · exact .inr (.inl ⟨d, rfl, _, _, _, h⟩)
  | wrStatus d =>
    left
    by_cases h : d.getLsbD 31 = true
    · rw [Kse.effect, statusWrite_of_set h]
      rfl
    · rw [Kse.effect, statusWrite_of_clear (by simpa using h)]
      rfl
  | wrIrqEn d => exact .inr (.inr (.inl ⟨d, rfl, _, _, rfl⟩))
  | wrDinLo d => exact .inr (.inr (.inr (.inl ⟨d, rfl, rfl⟩)))
  | wrDinHi d => exact .inr (.inr (.inr (.inr ⟨d, rfl, rfl⟩)))
  | _ => exact .inl rfl

section EffectFrame

variable (k : Kse) {i : Instr}

theorem effect_leaves_sponge (i : Instr) :
    (k.effect i).lanes = k.lanes ∧ (k.effect i).abuf = k.abuf ∧ (k.effect i).done = k.done ∧
    (k.effect i).dout = k.dout ∧ (k.effect i).permCount = k.permCount := by
  rcases effect_frame k i with h | ⟨d, -, r, u, o, h⟩ | ⟨d, -, a, b, h⟩ | ⟨d, -, h⟩ | ⟨d, -, h⟩
  all_goals
    rw [h]
    exact ⟨rfl, rfl, rfl, rfl, rfl⟩

theorem effect_leaves_config (hi : ∀ d, i ≠ .wrConfig d) :
    (k.effect i).rateBytes = k.rateBytes ∧ (k.effect i).suffix = k.suffix ∧ (k.effect i).outBytes = k.outBytes := by
  rcases effect_frame k i with h | ⟨d, hd, -⟩ | ⟨d, -, a, b, h⟩ | ⟨d, -, h⟩ | ⟨d, -, h⟩
  case inr.inl => exact absurd hd (hi d)
  all_goals
    rw [h]
    exact ⟨rfl, rfl, rfl⟩

theorem effect_leaves_irqEn (hi : ∀ d, i ≠ .wrIrqEn d) :
    (k.effect i).doneIe = k.doneIe ∧ (k.effect i).errIe = k.errIe := by
  rcases effect_frame k i with h | ⟨d, -, r, u, o, h⟩ | ⟨d, hd, -⟩ | ⟨d, -, h⟩ | ⟨d, -, h⟩
  case inr.inr.inl => exact absurd hd (hi d)
  all_goals
    rw [h]
    exact ⟨rfl, rfl⟩

theorem effect_leaves_dinLo (hi : ∀ d, i ≠ .wrDinLo d) : (k.effect i).dinLo = k.dinLo := by
  rcases effect_frame k i with h | ⟨d, -, r, u, o, h⟩ | ⟨d, -, a, b, h⟩ | ⟨d, hd, -⟩ | ⟨d, -, h⟩
  case inr.inr.inr.inl => exact absurd hd (hi d)
  all_goals exact (congrArg Kse.dinLo h).trans rfl

theorem effect_leaves_dinHi (hi : ∀ d, i ≠ .wrDinHi d) : (k.effect i).dinHi = k.dinHi := by
  rcases effect_frame k i with h | ⟨d, -, r, u, o, h⟩ | ⟨d, -, a, b, h⟩ | ⟨d, -, h⟩ | ⟨d, hd, -⟩
  case inr.inr.inr.inr => exact absurd hd (hi d)
  all_goals exact (congrArg Kse.dinHi h).trans rfl

end EffectFrame

/-- Settles O30. -/
theorem hostAccessesLeaveTheSponge : Obligations.HostAccessesLeaveTheSponge := by
  intro i s
  obtain ⟨r, n, he, -⟩ := exec_eq i s
  obtain ⟨hlanes, habuf, hdone, hdout, hcount⟩ := effect_leaves_sponge s.kse i
  exact ⟨_, he, hlanes, habuf, hdone, hdout, hcount, effect_leaves_config s.kse, effect_leaves_irqEn s.kse,
    effect_leaves_dinLo s.kse, effect_leaves_dinHi s.kse, rfl, rfl, rfl⟩

/-! ### A recorded error -/

/-- ERR after an access: kept, or cleared by an access for which `clears` holds. -/
def Kse.ErrKeptUnless (clears : Prop) (k k' : Kse) : Prop := k'.err = k.err ∨ (k'.err = .none ∧ clears)

section Sticky

variable {k : Kse} {clears : Prop}

theorem errKept_recordErr (he : k.err ≠ .none) (e : ErrCode) : k.ErrKeptUnless clears (k.recordErr e) :=
  .inl (by rw [recordErr_of_ne he])

theorem errKept_submit {accept : Kse → Kse} (he : k.err ≠ .none) (illegal sequenced : Bool)
    (ha : k.busy = false → k.ErrKeptUnless clears (accept k)) :
    k.ErrKeptUnless clears (k.submit illegal sequenced accept) := by
  rcases submit_cases k illegal sequenced accept with ⟨-, h⟩ | ⟨-, -, h⟩ | ⟨-, -, -, -, h⟩ | ⟨hb, -, -, h⟩
  · exact h ▸ errKept_recordErr he _
  · exact h ▸ errKept_recordErr he _
  · exact h ▸ errKept_recordErr he _
  · exact h ▸ ha hb

theorem errKept_configWrite (he : k.err ≠ .none) (d : Word) : k.ErrKeptUnless clears (k.configWrite d) := by
  rcases configWrite_cases k d with ⟨-, h⟩ | ⟨-, -, h⟩ | ⟨-, -, -, h⟩ | ⟨-, -, -, h⟩
  · exact h ▸ errKept_recordErr he _
  · exact h ▸ errKept_recordErr he _
  · exact h ▸ errKept_recordErr he _
  · exact h ▸ .inl rfl

/-- Of the commands only an accepted RESET clears ERR; WR_CMD does so by the word of RESET alone. -/
theorem errKept_effect (he : k.err ≠ .none) (i : Instr) :
    k.ErrKeptUnless ((∃ d : Word, i = .wrStatus d ∧ d.getLsbD 31 = true) ∨
      (k.busy = false ∧ (i = .reset ∨ i = .wrCmd 0x00000001))) (k.effect i) := by
  cases i with
  | nop | absorb n | finalize n | permute => exact errKept_submit he _ _ fun _ => .inl rfl
  | reset => exact errKept_submit he _ _ fun hb => .inr ⟨rfl, .inr ⟨hb, .inl rfl⟩⟩
  | wrConfig d => exact errKept_configWrite he d
  | wrStatus d =>
    by_cases h : d.getLsbD 31 = true
    · exact .inr ⟨by rw [Kse.effect, statusWrite_of_set h]; rfl, .inl ⟨d, rfl, h⟩⟩
    · exact .inl (by rw [Kse.effect, statusWrite_of_clear (by simpa using h)])
  | wrCmd d =>
    rw [Kse.effect]
    cases hd : decodeCommand d with
    | error e =>
      rw [commandWrite_of_decode_error k hd]
      exact errKept_recordErr he _
    | ok j =>
      obtain ⟨hw, henc⟩ := encode_of_decodeCommand hd
      rw [(commandWrite_of_encode k hw henc).2]
      cases j with
      | nop | absorb n | finalize n | permute => exact errKept_submit he _ _ fun _ => .inl rfl
      | reset =>
        cases henc
        exact errKept_submit he _ _ fun hb => .inr ⟨rfl, .inr ⟨hb, .inr rfl⟩⟩
      | _ => cases henc
  | _ => exact .inl rfl

end Sticky

/-- Settles O31. -/
theorem errIsSticky : Obligations.ErrIsSticky := by
  intro i s t h he
  obtain ⟨hk, -⟩ := exec_next h
  rw [hk]
  exact errKept_effect he i

end Sys2Proof.Machine
end

section
/-! The engine's frame (10_state.md R37), and why a host access does not reach a pending command (20_memory.md R83,
60_exceptions.md R224). -/

namespace Sys2Proof.Machine

/-! ### The frame of a completion -/

/-- The engine leaves ERR, CONFIG, IRQ_EN and DIN, whether a command is pending or not. -/
theorem engine_frame (k : Kse) :
    k.engine.err = k.err ∧ k.engine.rateBytes = k.rateBytes ∧ k.engine.suffix = k.suffix ∧
    k.engine.outBytes = k.outBytes ∧ k.engine.doneIe = k.doneIe ∧ k.engine.errIe = k.errIe ∧
    k.engine.dinLo = k.dinLo ∧ k.engine.dinHi = k.dinHi := by
  cases hp : k.pend with
  | none =>
    rw [engine_of_none hp]
    exact ⟨rfl, rfl, rfl, rfl, rfl, rfl, rfl, rfl⟩
  | some p =>
    rw [engine_of_some hp]
    obtain ⟨-, -, hframe⟩ := complete_frame k p
    exact hframe

theorem engine_retires {k : Kse} (hp : k.pend ≠ none) : k.engine.pend = none ∧ k.engine.busy = false := by
  obtain ⟨p, hp⟩ := Option.ne_none_iff_exists'.mp hp
  rw [engine_of_some hp]
  obtain ⟨hpend, hbusy, -⟩ := complete_frame k p
  exact ⟨hpend, hbusy⟩

theorem engineStep_of_none {s : State} (hp : s.kse.pend = none) : engineStep s = s := by
  rw [engineStep, engine_of_none hp]

/-- Settles O32. -/
theorem engineFrame : Obligations.EngineFrame := by
  intro s
  exact ⟨engineStep_of_none, engine_retires, rfl, engine_frame s.kse⟩

/-! ### A completion depends on the sponge and CONFIG alone -/

/-- A KSE that has only its sponge changed, to that of `b`. -/
theorem eq_setSponge_of_sameSponge {a a' b : Kse} (ha : a.SpongeOf a') (h : a'.SameSponge b) :
    a' = a.setSponge b.lanes b.abuf b.permCount := by
  obtain ⟨S, m, c, rfl⟩ := ha
  rw [← h.lanes, ← h.abuf, ← h.permCount]
  rfl

/-- Two KSEs of the same sponge and CONFIG absorb the same bytes by the same update. -/
theorem absorbBytes_sameUpdate {a b : Kse} (h : a.SameSponge b) (bs : List Byte) :
    ∃ S m c, a.absorbBytes bs = a.setSponge S m c ∧ b.absorbBytes bs = b.setSponge S m c := by
  obtain ⟨S, m, c, hb⟩ := spongeOf_absorbBytes bs b
  have ha := eq_setSponge_of_sameSponge (spongeOf_absorbBytes bs a) (sameSponge_absorbBytes bs h)
  rw [hb] at ha
  exact ⟨S, m, c, ha, hb⟩

/-- What a completed FINALIZE leaves: the sponge after the squeeze, the digest, and DONE. -/
def Kse.withDigest (k : Kse) (S : Lanes) (m : List Byte) (c : Word) (v : Vector Byte 256) : Kse :=
  (((k.setSponge S m c).setDout v).setDone true).clearPend

section WithDigest

variable (k : Kse) (S : Lanes) (m : List Byte) (c : Word) (v : Vector Byte 256)

@[simp] theorem Kse.withDigest_lanes : (k.withDigest S m c v).lanes = S := rfl
@[simp] theorem Kse.withDigest_abuf : (k.withDigest S m c v).abuf = m := rfl
@[simp] theorem Kse.withDigest_permCount : (k.withDigest S m c v).permCount = c := rfl
@[simp] theorem Kse.withDigest_dout : (k.withDigest S m c v).dout = v := rfl
@[simp] theorem Kse.withDigest_busy : (k.withDigest S m c v).busy = false := rfl
@[simp] theorem Kse.withDigest_done : (k.withDigest S m c v).done = true := rfl
@[simp] theorem Kse.withDigest_locked : (k.withDigest S m c v).locked = k.locked := rfl
@[simp] theorem Kse.withDigest_err : (k.withDigest S m c v).err = k.err := rfl

end WithDigest

/-- Two KSEs of the same sponge and CONFIG complete the same FINALIZE by the same update. -/
theorem completeFinalize_sameUpdate {a b : Kse} (h : a.SameSponge b) (bs : List Byte) :
    ∃ S m c v, a.completeFinalize bs = a.withDigest S m c v ∧ b.completeFinalize bs = b.withDigest S m c v := by
  obtain ⟨hout, hsponge⟩ := sameSponge_squeeze (sameSponge_absorbPadded h bs)
  obtain ⟨S, m, c, hb⟩ := (spongeOf_absorbPadded b bs).trans (spongeOf_squeeze _)
  have ha := eq_setSponge_of_sameSponge ((spongeOf_absorbPadded a bs).trans (spongeOf_squeeze _)) hsponge
  rw [hb] at ha
  refine ⟨S, m, c, doutOf (b.absorbPadded bs).squeeze.1, ?_, ?_⟩
  · rw [Kse.completeFinalize, ha, hout]
    rfl
  · rw [Kse.completeFinalize, hb]
    rfl

/-! ### What the host can write while a command is pending -/

/-- ERR, IRQ_EN and DIN: all that an access made while BUSY = 1 can write. -/
def Kse.setHostRegs (k : Kse) (e : ErrCode) (doneIe errIe : Bool) (lo hi : Word) : Kse :=
  { k with err := e, doneIe := doneIe, errIe := errIe, dinLo := lo, dinHi := hi }

theorem effect_of_busy {k : Kse} (hb : k.busy = true) (i : Instr) :
    ∃ e doneIe errIe lo hi, k.effect i = k.setHostRegs e doneIe errIe lo hi := by
  rcases effect_cases k i with h | ⟨e, h⟩ | h | ⟨hb', -⟩ | ⟨a, b, h⟩ | ⟨d, h⟩ | ⟨d, h⟩ | ⟨hb', -⟩ | ⟨hb', -⟩ | ⟨hb', -⟩
  · exact ⟨k.err, k.doneIe, k.errIe, k.dinLo, k.dinHi, h⟩
  · rw [recordErr_eq] at h
    exact ⟨_, k.doneIe, k.errIe, k.dinLo, k.dinHi, h⟩
  · exact ⟨.none, k.doneIe, k.errIe, k.dinLo, k.dinHi, h⟩
  · exact absurd hb (ne_true_of_eq_false hb')
  · exact ⟨k.err, a, b, k.dinLo, k.dinHi, h⟩
  · exact ⟨k.err, k.doneIe, k.errIe, d, k.dinHi, h⟩
  · exact ⟨k.err, k.doneIe, k.errIe, k.dinLo, d, h⟩
  · exact absurd hb (ne_true_of_eq_false hb')
  · exact absurd hb (ne_true_of_eq_false hb')
  · exact absurd hb (ne_true_of_eq_false hb')

section SetHostRegs

variable (k : Kse) (e : ErrCode) (doneIe errIe : Bool) (lo hi : Word)

theorem sameSponge_setHostRegs : (k.setHostRegs e doneIe errIe lo hi).SameSponge k := ⟨rfl, rfl, rfl, rfl, rfl, rfl⟩

/-- A completion carries those registers through. -/
theorem complete_setHostRegs (p : Pending) :
    (k.setHostRegs e doneIe errIe lo hi).complete p = (k.complete p).setHostRegs e doneIe errIe lo hi := by
  have hsame := sameSponge_setHostRegs k e doneIe errIe lo hi
  obtain ⟨op, bytes⟩ := p
  cases op with
  | reset => rfl
  | permute => rfl
  | absorb =>
    obtain ⟨S, m, c, hregs, hk⟩ := absorbBytes_sameUpdate hsame bytes
    simp only [Kse.complete, Kse.completeAbsorb]
    rw [hregs, hk]
    rfl
  | finalize =>
    obtain ⟨S, m, c, v, hregs, hk⟩ := completeFinalize_sameUpdate hsame bytes
    simp only [Kse.complete]
    rw [hregs, hk]
    rfl

theorem engine_setHostRegs {p : Pending} (hp : k.pend = some p) :
    (k.setHostRegs e doneIe errIe lo hi).engine = k.engine.setHostRegs e doneIe errIe lo hi := by
  rw [engine_of_some hp, ← complete_setHostRegs]
  exact engine_of_some hp

end SetHostRegs

/-- Settles O33: the access writes registers that the completion does not read. -/
theorem pendingCommandIsUnaffected : Obligations.PendingCommandIsUnaffected := by
  intro i s hb hp
  obtain ⟨p, hp⟩ := Option.ne_none_iff_exists'.mp hp
  obtain ⟨r, n, hexec, -⟩ := exec_eq i s
  obtain ⟨e, a, b, lo, hi, hk⟩ := effect_of_busy hb i
  refine ⟨_, hexec, ?_⟩
  simp only [engineStep_kse]
  rw [hk, engine_setHostRegs s.kse e a b lo hi hp]
  rfl

end Sys2Proof.Machine
end

section
/-! The sponge (41_sponge.md section 1): absorbing in blocks, the padded block, the bytes of the state, and the
squeeze. -/

namespace Sys2Proof.Machine

/-! ### Absorbing in blocks -/

theorem absorbBlocks_zero (S : Lanes) (rate : Nat) (m : List Byte) : absorbBlocks S rate m 0 = S := rfl

theorem absorbBlocks_succ (S : Lanes) (rate : Nat) (m : List Byte) (q : Nat) :
    absorbBlocks S rate m (q + 1) = keccakF (xorFrom 0 (absorbBlocks S rate m q) ((m.drop (q * rate)).take rate)) := by
  rw [absorbBlocks, absorbBlocks, List.range_succ, List.foldl_append, List.foldl_cons, List.foldl_nil]

/-- Bytes beyond the first `q` blocks do not matter to them. -/
theorem absorbBlocks_append (S : Lanes) (rate : Nat) (m x : List Byte) {q : Nat} (hq : q * rate ≤ m.length) :
    absorbBlocks S rate (m ++ x) q = absorbBlocks S rate m q := by
  induction q with
  | zero => rw [absorbBlocks_zero, absorbBlocks_zero]
  | succ q ih =>
    rw [Nat.succ_mul] at hq
    rw [absorbBlocks_succ, absorbBlocks_succ, ih (by omega), List.drop_append_of_le_length (by omega),
      List.take_append_of_le_length (by rw [List.length_drop]; omega)]

/-- `k` with the first `q` blocks of `m` absorbed, and the rest of `m` in ABUF. -/
def Kse.blockwise (k : Kse) (m : List Byte) (q : Nat) : Kse :=
  k.setSponge (absorbBlocks k.lanes k.rateBytes.toNat m q) (m.drop (q * k.rateBytes.toNat))
    (k.permCount + BitVec.ofNat 32 q)

section Blockwise

variable {k : Kse} {m : List Byte} {q : Nat} (hlow : q * k.rateBytes.toNat ≤ m.length) (b : Byte)

include hlow

theorem drop_append_singleton :
    (m ++ [b]).drop (q * k.rateBytes.toNat) = m.drop (q * k.rateBytes.toNat) ++ [b] :=
  List.drop_append_of_le_length hlow

/-- The byte that fills ABUF completes block `q`. -/
theorem absorbByte_blockwise_of_full (hfull : m.length + 1 = q * k.rateBytes.toNat + k.rateBytes.toNat) :
    (k.blockwise m q).absorbByte b = k.blockwise (m ++ [b]) (q + 1) := by
  have hlen : (m ++ [b]).length = (q + 1) * k.rateBytes.toNat := by
    rw [List.length_append, List.length_singleton, hfull, Nat.succ_mul]
  have hblock : ((m ++ [b]).drop (q * k.rateBytes.toNat)).take k.rateBytes.toNat =
      m.drop (q * k.rateBytes.toNat) ++ [b] := by
    rw [drop_append_singleton hlow, List.take_of_length_le]
    rw [List.length_append, List.length_drop, List.length_singleton]
    omega
  have habuf : (k.blockwise m q).abuf.length + 1 = (k.blockwise m q).rateBytes.toNat := by
    rw [Kse.blockwise, Kse.setSponge_abuf, Kse.setSponge_rateBytes, List.length_drop]
    omega
  rw [absorbByte_of_full habuf, Kse.blockwise, Kse.blockwise, absorbBlocks_succ, absorbBlocks_append _ _ _ _ hlow,
    hblock, ← hlen, List.drop_length, BitVec.ofNat_add, ← BitVec.add_assoc]
  rfl

/-- Any other byte stays in ABUF. -/
theorem absorbByte_blockwise_of_room (hroom : m.length + 1 < q * k.rateBytes.toNat + k.rateBytes.toNat) :
    (k.blockwise m q).absorbByte b = k.blockwise (m ++ [b]) q := by
  have habuf : (k.blockwise m q).abuf.length + 1 ≠ (k.blockwise m q).rateBytes.toNat := by
    rw [Kse.blockwise, Kse.setSponge_abuf, Kse.setSponge_rateBytes, List.length_drop]
    omega
  rw [absorbByte_of_room habuf, Kse.blockwise, Kse.blockwise, absorbBlocks_append _ _ _ _ hlow,
    drop_append_singleton hlow]
  rfl

end Blockwise

/-- AbsorbBytes fills and flushes ABUF byte by byte; what it leaves is the whole blocks absorbed, and the rest of the
bytes in ABUF (R173). -/
theorem absorbBytes_blockwise {k : Kse} (h : k.abuf.length < k.rateBytes.toNat) (bs : List Byte) :
    k.absorbBytes bs = k.blockwise (k.abuf ++ bs) ((k.abuf ++ bs).length / k.rateBytes.toNat) := by
  induction bs using List.reverseRecOn with
  | nil =>
    rw [absorbBytes_nil, List.append_nil, Nat.div_eq_of_lt h, Kse.blockwise, Nat.zero_mul, BitVec.add_zero]
    rfl
  | append_singleton bs b ih =>
    have hpos : 0 < k.rateBytes.toNat := Nat.zero_lt_of_lt h
    rw [absorbBytes_append, absorbBytes_cons, absorbBytes_nil, ih, ← List.append_assoc]
    generalize k.abuf ++ bs = m
    have hlow : m.length / k.rateBytes.toNat * k.rateBytes.toNat ≤ m.length := Nat.div_mul_le_self _ _
    have hhigh := Nat.lt_div_mul_add hpos (a := m.length)
    rw [List.length_append, List.length_singleton]
    generalize m.length / k.rateBytes.toNat = q at hlow hhigh ⊢
    rcases Nat.lt_or_eq_of_le hhigh with hroom | hfull
    · rw [absorbByte_blockwise_of_room hlow b hroom,
        Nat.div_eq_of_lt_le (by omega) (by rw [Nat.succ_mul]; omega : m.length + 1 < (q + 1) * k.rateBytes.toNat)]
    · have hdiv : (m.length + 1) / k.rateBytes.toNat = q + 1 := by
        rw [show m.length + 1 = (q + 1) * k.rateBytes.toNat by rw [Nat.succ_mul, ← hfull], Nat.mul_div_cancel _ hpos]
      rw [absorbByte_blockwise_of_full hlow b hfull, hdiv]

/-- Settles O25. -/
theorem absorbCompletionIsBlockwise : Obligations.AbsorbCompletionIsBlockwise := by
  intro s bytes hinv hp rate m q k
  have hk : k = (s.kse.absorbBytes bytes).clearPend := engine_of_some hp
  rw [hk, absorbBytes_blockwise hinv.abuf_lt_rate]
  refine ⟨rfl, ?_⟩
  calc (m.drop (m.length / rate * rate)).length
    _ = m.length - m.length / rate * rate := List.length_drop
    _ = m.length % rate := by rw [Nat.mod_eq_sub_div_mul]
    _ = (s.kse.abuf.length + bytes.length) % rate := by rw [List.length_append]

/-! ### The padded block -/

theorem pad_length {buf : List Byte} {rate : Nat} (suf : Byte) (h : buf.length < rate) :
    (pad buf rate suf).length = rate := by
  rw [pad, List.length_modify, List.length_modify, List.length_append, List.length_replicate]
  omega

/-- A byte string extended with zeros. -/
theorem getElem?_append_zeros (buf : List Byte) {n i : Nat} (hi : i < buf.length + n) :
    (buf ++ List.replicate n 0)[i]? = some (buf.getD i 0) := by
  by_cases hb : i < buf.length
  · rw [List.getElem?_append_left hb, List.getD_eq_getElem?_getD, List.getElem?_eq_getElem hb]
    rfl
  · rw [List.getElem?_append_right (by omega), List.getElem?_replicate_of_lt (by omega),
      List.getD_eq_default _ _ (by omega)]

/-- Settles O50: the zero-extended buffer, with the two modifications of R176. -/
theorem padBytes : Obligations.PadBytes := by
  intro buf rate suf h
  refine ⟨pad_length suf h, fun i hi => ?_⟩
  have hxor (c : Prop) [Decidable c] (x y : Byte) : (if c then x ^^^ y else x) = x ^^^ (if c then y else 0) := by
    split
    · rfl
    · exact BitVec.xor_zero.symm
  rw [pad, List.getElem?_modify, List.getElem?_modify, getElem?_append_zeros buf (by omega)]
  simp only [Option.map_eq_map, Option.map_some, hxor, eq_comm]

/-! ### The bytes of the state -/

theorem byte_xor_zero (b : Byte) : b ^^^ 0 = b := BitVec.xor_zero

theorem byte_zero_xor (b : Byte) : 0 ^^^ b = b := BitVec.zero_xor

/-- A byte moved to byte position `p` of a lane is 0 at every other position. -/
theorem extractLsb'_shiftLeft_byte (b : Byte) {p q : Nat} (hq : q < 8) :
    (b.setWidth 64 <<< (8 * p)).extractLsb' (8 * q) 8 = if p = q then b else 0 := by
  apply BitVec.eq_of_getLsbD_eq
  intro t ht
  rw [BitVec.getLsbD_extractLsb', BitVec.getLsbD_shiftLeft, BitVec.getLsbD_setWidth]
  rcases Nat.lt_trichotomy p q with hpq | rfl | hpq
  · rw [if_neg (Nat.ne_of_lt hpq), BitVec.getLsbD_of_ge b _ (by omega)]
    simp
  · rw [if_pos rfl, Nat.add_sub_cancel_left, decide_eq_true ht, decide_eq_true (show 8 * p + t < 64 by omega),
      decide_eq_false (show ¬ 8 * p + t < 8 * p by omega), decide_eq_true (show t < 64 by omega)]
    simp
  · rw [if_neg (Nat.ne_of_gt hpq), decide_eq_true (show 8 * q + t < 8 * p by omega)]
    simp

/-- XorByte changes its own byte of the state and no other (00_scope.md R11). -/
theorem stateByte_xorByte (S : Lanes) {i j : Nat} (b : Byte) (hi : i < 200) (hj : j < 200) :
    stateByte (xorByte S i b) j = stateByte S j ^^^ (if i = j then b else 0) := by
  have hi' : i / 8 < 25 := by omega
  have hj' : j / 8 < 25 := by omega
  rw [stateByte, stateByte, laneAt_of_lt _ hj', laneAt_of_lt _ hj', xorByte, dif_pos hi', Vector.getElem_set]
  split
  case isTrue hlane =>
    have hij : i % 8 = j % 8 ↔ i = j := by omega
    rw [BitVec.extractLsb'_xor, extractLsb'_shiftLeft_byte b (Nat.mod_lt j (by decide))]
    simp only [hlane, hij]
  case isFalse hlane =>
    rw [if_neg fun hij => hlane (by rw [hij]), byte_xor_zero]

/-- A block XORed in from byte `i` on. -/
theorem stateByte_xorFrom (B : List Byte) {i j : Nat} (S : Lanes) (h : i + B.length ≤ 200) (hj : j < 200) :
    stateByte (xorFrom i S B) j = stateByte S j ^^^ (if i ≤ j then B.getD (j - i) 0 else 0) := by
  induction B generalizing i S with
  | nil =>
    rw [xorFrom, List.getD_nil, ite_self, byte_xor_zero]
  | cons b B ih =>
    rw [List.length_cons] at h
    rw [xorFrom, ih (xorByte S i b) (by omega), stateByte_xorByte S b (by omega) hj, BitVec.xor_assoc]
    congr 1
    rcases Nat.lt_trichotomy i j with hij | rfl | hij
    · rw [if_neg (Nat.ne_of_lt hij), if_pos (Nat.succ_le_of_lt hij), if_pos (Nat.le_of_lt hij), byte_zero_xor,
        show j - i = j - (i + 1) + 1 by omega, List.getD_cons_succ]
    · rw [if_pos rfl, if_neg (by omega), if_pos (Nat.le_refl i), byte_xor_zero, Nat.sub_self, List.getD_cons_zero]
    · rw [if_neg (Nat.ne_of_gt hij), if_neg (by omega), if_neg (by omega), byte_xor_zero]

/-- Settles O51. -/
theorem blockMeetsTheRatePortion : Obligations.BlockMeetsTheRatePortion := by
  intro k B hB
  refine ⟨fun i hi => ?_, rfl⟩
  rw [stateByte_xorFrom B k.lanes (by omega) hi, if_pos (Nat.zero_le i), Nat.sub_zero]

/-! ### The squeeze -/

/-- The first `n` squeezed bytes from `S`: byte j is state byte j mod RATE after j div RATE permutations (R177). -/
def squeezedBytes (S : Lanes) (rate n : Nat) : List Byte :=
  (List.range n).map fun j => stateByte (keccakIter (j / rate) S) (j % rate)

theorem squeezedBytes_length (S : Lanes) (rate n : Nat) : (squeezedBytes S rate n).length = n := by
  rw [squeezedBytes, List.length_map, List.length_range]

/-- One turn of the squeeze takes at most RATE bytes from the state after `i` permutations. -/
theorem squeezedBytes_append_stateBytes (S : Lanes) {rate i n : Nat} (hn : n ≤ rate) :
    squeezedBytes S rate (i * rate) ++ stateBytes (keccakIter i S) n = squeezedBytes S rate (i * rate + n) := by
  rw [squeezedBytes, squeezedBytes, stateBytes, List.range_add, List.map_append, List.map_map]
  congr 1
  apply List.map_congr_left
  intro j hj
  have hjr : j < rate := Nat.lt_of_lt_of_le (List.mem_range.mp hj) hn
  have hdiv : (i * rate + j) / rate = i := Nat.div_eq_of_lt_le (by omega) (by rw [Nat.succ_mul]; omega)
  have hmod : (i * rate + j) % rate = j := Nat.mul_add_mod_of_lt hjr
  simp only [Function.comp, hdiv, hmod]

theorem keccakIter_succ (n : Nat) (S : Lanes) : keccakIter (n + 1) S = keccakF (keccakIter n S) :=
  Function.iterate_succ_apply' keccakF n S

/-- `k` after `i` permutations of the squeeze. -/
def Kse.squeezedTo (k : Kse) (i : Nat) : Kse :=
  k.setSponge (keccakIter i k.lanes) k.abuf (k.permCount + BitVec.ofNat 32 i)

theorem squeezedTo_zero (k : Kse) : k.squeezedTo 0 = k := by
  rw [Kse.squeezedTo, BitVec.add_zero]
  rfl

theorem permuteOnce_squeezedTo (k : Kse) (i : Nat) : (k.squeezedTo i).permuteOnce = k.squeezedTo (i + 1) := by
  rw [Kse.squeezedTo, Kse.squeezedTo, keccakIter_succ, BitVec.ofNat_add, ← BitVec.add_assoc]
  rfl

/-- The squeeze, from the turn after `i` whole blocks: one byte or more each turn, so the fuel is enough. -/
theorem squeezeLoop_eq (k : Kse) (hrate : 1 ≤ k.rateBytes.toNat) {fuel i : Nat}
    (hmore : i * k.rateBytes.toNat < k.outBytes.toNat)
    (hfuel : k.outBytes.toNat ≤ i * k.rateBytes.toNat + fuel) :
    squeezeLoop fuel (squeezedBytes k.lanes k.rateBytes.toNat (i * k.rateBytes.toNat)) (k.squeezedTo i) =
      (squeezedBytes k.lanes k.rateBytes.toNat k.outBytes.toNat,
        k.squeezedTo ((k.outBytes.toNat - 1) / k.rateBytes.toNat)) := by
  induction fuel generalizing i with
  | zero => omega
  | succ fuel ih =>
    have htaken : squeezedBytes k.lanes k.rateBytes.toNat (i * k.rateBytes.toNat) ++
        stateBytes (keccakIter i k.lanes) (min k.rateBytes.toNat (k.outBytes.toNat - i * k.rateBytes.toNat)) =
        squeezedBytes k.lanes k.rateBytes.toNat
          (i * k.rateBytes.toNat + min k.rateBytes.toNat (k.outBytes.toNat - i * k.rateBytes.toNat)) :=
      squeezedBytes_append_stateBytes k.lanes (Nat.min_le_left _ _)
    simp only [squeezeLoop, Kse.squeezedTo, Kse.setSponge_lanes, Kse.setSponge_rateBytes, Kse.setSponge_outBytes,
      squeezedBytes_length]
    rw [htaken, squeezedBytes_length, ← Kse.squeezedTo, permuteOnce_squeezedTo]
    by_cases hlast : k.outBytes.toNat ≤ i * k.rateBytes.toNat + k.rateBytes.toNat
    case pos =>
      have hdone : i * k.rateBytes.toNat + min k.rateBytes.toNat (k.outBytes.toNat - i * k.rateBytes.toNat) =
          k.outBytes.toNat := by omega
      have hdiv : (k.outBytes.toNat - 1) / k.rateBytes.toNat = i :=
        Nat.div_eq_of_lt_le (by omega) (by rw [Nat.succ_mul]; omega)
      rw [if_pos hdone, hdone, hdiv]
      rfl
    case neg =>
      have hnext : i * k.rateBytes.toNat + min k.rateBytes.toNat (k.outBytes.toNat - i * k.rateBytes.toNat) =
          (i + 1) * k.rateBytes.toNat := by
        rw [Nat.succ_mul]
        omega
      rw [if_neg (by rw [hnext, Nat.succ_mul]; omega), hnext]
      exact ih (by rw [Nat.succ_mul]; omega) (by rw [Nat.succ_mul]; omega)

theorem squeeze_eq (k : Kse) (hrate : 1 ≤ k.rateBytes.toNat) (hout : 1 ≤ k.outBytes.toNat) :
    k.squeeze = (squeezedBytes k.lanes k.rateBytes.toNat k.outBytes.toNat,
      k.squeezedTo ((k.outBytes.toNat - 1) / k.rateBytes.toNat)) := by
  have h := squeezeLoop_eq k hrate (fuel := k.outBytes.toNat) (i := 0) (by omega) (by omega)
  rwa [squeezedTo_zero, Nat.zero_mul] at h

/-! ### The completion of FINALIZE -/

/-- T of R177: all bytes absorbed in blocks, the rest padded and absorbed. -/
def Kse.paddedLanes (k : Kse) (bytes : List Byte) : Lanes :=
  let m := k.abuf ++ bytes
  let rate := k.rateBytes.toNat
  keccakF (xorFrom 0 (absorbBlocks k.lanes rate m (m.length / rate))
    (pad (m.drop (m.length / rate * rate)) rate k.suffix))

theorem absorbPadded_eq {k : Kse} (h : k.abuf.length < k.rateBytes.toNat) (bytes : List Byte) :
    k.absorbPadded bytes =
      k.setSponge (k.paddedLanes bytes) []
        (k.permCount + BitVec.ofNat 32 ((k.abuf ++ bytes).length / k.rateBytes.toNat + 1)) := by
  rw [Kse.absorbPadded, absorbBytes_blockwise h, BitVec.ofNat_add, ← BitVec.add_assoc]
  rfl

/-- The whole effect of a FINALIZE on the KSE. -/
theorem completeFinalize_eq {k : Kse} (h : k.abuf.length < k.rateBytes.toNat) (hout : 1 ≤ k.outBytes.toNat)
    (bytes : List Byte) :
    k.completeFinalize bytes =
      { k with
        lanes := keccakIter ((k.outBytes.toNat - 1) / k.rateBytes.toNat) (k.paddedLanes bytes)
        abuf := []
        dout := doutOf (squeezedBytes (k.paddedLanes bytes) k.rateBytes.toNat k.outBytes.toNat)
        permCount := k.permCount + BitVec.ofNat 32
          ((k.abuf ++ bytes).length / k.rateBytes.toNat + 1 + (k.outBytes.toNat - 1) / k.rateBytes.toNat)
        done := true, busy := false, pend := none } := by
  have hsqueeze (c : Word) := squeeze_eq (k.setSponge (k.paddedLanes bytes) [] c) (Nat.one_le_of_lt h) hout
  rw [Kse.completeFinalize, absorbPadded_eq h, hsqueeze, BitVec.ofNat_add _ (_ / _), ← BitVec.add_assoc]
  rfl

theorem doutOf_getElem (out : List Byte) {j : Nat} (hj : j < 256) :
    (doutOf out)[j] = out.getD j 0 := by
  rw [doutOf, Vector.getElem_mk, List.getElem_toArray, List.getElem_take]
  apply Option.some.inj
  rw [← List.getElem?_eq_getElem, getElem?_append_zeros out (by omega)]

theorem squeezedBytes_getD (S : Lanes) (rate n j : Nat) :
    (squeezedBytes S rate n).getD j 0 = if j < n then stateByte (keccakIter (j / rate) S) (j % rate) else 0 := by
  rw [squeezedBytes]
  split
  · next h => simp [h]
  · next h => rw [List.getD_eq_default _ _ (by rw [List.length_map, List.length_range]; omega)]

/-- Settles O26. -/
theorem finalizeCompletionDigest : Obligations.FinalizeCompletionDigest := by
  intro s bytes hinv hp rate out m q T k
  obtain ⟨-, -, hout, -⟩ := hinv.config
  have hk : k = s.kse.completeFinalize bytes := engine_of_some hp
  rw [hk, completeFinalize_eq hinv.abuf_lt_rate hout]
  refine ⟨fun j hj => ?_, rfl⟩
  rw [doutOf_getElem _ hj]
  exact squeezedBytes_getD T rate out j

end Sys2Proof.Machine
end

section
/-! Messages in chunks (30_encoding.md R112, 41_sponge.md R174, R177, R179, R185): what STAGE and CMDW of a chunk do,
and that only the bytes of the message matter. -/

namespace Sys2Proof.Machine

/-! ### STAGE -/

theorem wordOfBytes_byte (bs : List Byte) {i : Nat} (hi : i < 4) :
    (wordOfBytes bs).extractLsb' (8 * i) 8 = bs.getD i 0 := by
  rw [wordOfBytes, extractLsb'_of_four_bytes _ _ _ _ i hi]
  interval_cases i <;> rfl

/-- The two DIN writes of STAGE. -/
def Kse.stage (k : Kse) (bs : List Byte) : Kse := (k.setDinLo (wordOfBytes bs)).setDinHi (wordOfBytes (bs.drop 4))

theorem stage_dinByte (k : Kse) (bs : List Byte) {i : Nat} (hi : i < 8) : (k.stage bs).dinByte i = bs.getD i 0 := by
  rw [dinByte_eq _ hi]
  split
  · next h => exact wordOfBytes_byte bs h
  · next h =>
    rw [Kse.stage, Kse.setDinHi_dinHi, wordOfBytes_byte _ (by omega), List.getD_eq_getElem?_getD,
      List.getElem?_drop, Nat.add_sub_cancel' (Nat.le_of_not_lt h), ← List.getD_eq_getElem?_getD]

theorem stage_stagedBytes (k : Kse) {bs : List Byte} (h : bs.length ≤ 8) : (k.stage bs).stagedBytes bs.length = bs := by
  apply List.ext_getElem (stagedBytes_length _ _)
  intro i _ hi
  simp only [Kse.stagedBytes, List.getElem_map, List.getElem_range]
  rw [stage_dinByte k bs (by omega), List.getD_eq_getElem?_getD, List.getElem?_eq_getElem hi]
  rfl

/-- Settles O56. -/
theorem stageStagesItsBytes : Obligations.StageStagesItsBytes := by
  intro s bs h
  exact ⟨rfl, _, _, exec_wrDinLo _ s, exec_wrDinHi _ _, stage_stagedBytes s.kse h⟩

/-! ### SIZE and BLOCKSIZE -/

theorem wordField_toNat (v : Word) {hi lo : Nat} (h : hi + 1 - lo ≤ 32) :
    (wordField v hi lo).toNat = (v.extractLsb' lo (hi + 1 - lo)).toNat := by
  rw [wordField, BitVec.toNat_setWidth_of_le h]

/-- Settles O57. -/
theorem sizeAndBlockSize : Obligations.SizeAndBlockSize := by
  refine ⟨fun k => ⟨?_, ?_⟩, rfl, rfl⟩
  · rw [wordField_toNat _ (by decide)]
    exact congrArg BitVec.toNat (configWord_outBytes k)
  · rw [wordField_toNat _ (by decide)]
    exact congrArg BitVec.toNat (configWord_rateBytes k)

/-! ### FINALIZE after ABSORB -/

theorem Kse.SameSponge.symm {a b : Kse} (h : a.SameSponge b) : b.SameSponge a :=
  ⟨h.lanes.symm, h.abuf.symm, h.permCount.symm, h.rateBytes.symm, h.suffix.symm, h.outBytes.symm⟩

theorem Kse.SameSponge.trans {a b c : Kse} (h : a.SameSponge b) (h' : b.SameSponge c) : a.SameSponge c :=
  ⟨h.lanes.trans h'.lanes, h.abuf.trans h'.abuf, h.permCount.trans h'.permCount, h.rateBytes.trans h'.rateBytes,
    h.suffix.trans h'.suffix, h.outBytes.trans h'.outBytes⟩

/-- FINALIZE absorbs its extra bytes first (R177). -/
theorem completeFinalize_absorbBytes (k : Kse) (a b : List Byte) :
    (k.absorbBytes a).completeFinalize b = k.completeFinalize (a ++ b) := by
  simp only [Kse.completeFinalize, Kse.absorbPadded, absorbBytes_append]

theorem commandCycle_of_isCommand {i : Instr} (hi : isCommand i = true) (s : State) :
    commandCycle i s = some (engineStep (s.afterWrite (s.kse.effect i))) := by
  rw [commandCycle, exec_of_isCommand hi]

/-- R177's corner case on the KSE: the bytes reach the sponge before the padding either way. -/
theorem completeFinalize_after_completeAbsorb (k : Kse) (n : Nat) (bytes : List Byte) :
    (((k.acceptAbsorb n).completeAbsorb bytes).acceptFinalize 0).completeFinalize [] =
      (k.acceptFinalize n).completeFinalize bytes := by
  have haccept : (k.acceptAbsorb n).SameSponge (k.acceptFinalize n) := ⟨rfl, rfl, rfl, rfl, rfl, rfl⟩
  obtain ⟨S, m, c, habsorb, hfinalize⟩ := absorbBytes_sameUpdate haccept bytes
  have hsame : ((((k.acceptAbsorb n).setSponge S m c).clearPend).acceptFinalize 0).SameSponge
      ((k.acceptFinalize n).setSponge S m c) := ⟨rfl, rfl, rfl, rfl, rfl, rfl⟩
  obtain ⟨S', m', c', v, hleft, hright⟩ := completeFinalize_sameUpdate hsame []
  have habsorbed := completeFinalize_absorbBytes (k.acceptFinalize n) bytes []
  rw [List.append_nil, hfinalize, hright] at habsorbed
  rw [Kse.completeAbsorb, habsorb, hleft, ← habsorbed]
  rfl

/-- Settles O27. -/
theorem finalizeIsAbsorbThenFinalize : Obligations.FinalizeIsAbsorbThenFinalize := by
  intro s n hn hb hd
  have hdone : ((s.kse.acceptAbsorb n.toNat).completeAbsorb (s.kse.stagedBytes n.toNat)).done = false := by
    obtain ⟨S, m, c, hs⟩ := spongeOf_absorbBytes (s.kse.stagedBytes n.toNat) (s.kse.acceptAbsorb n.toNat)
    rw [Kse.completeAbsorb, hs]
    exact hd
  refine ⟨_, _, _, commandCycle_of_isCommand rfl s, commandCycle_of_isCommand rfl s,
    commandCycle_of_isCommand rfl _, ?_⟩
  rw [effect_absorb_of_idle hb hd hn, effect_finalize_of_idle hb hd hn]
  exact (congrArg Kse.engine (effect_finalize_of_idle (n := 0) rfl hdone (Nat.zero_le 8))).trans
    (completeFinalize_after_completeAbsorb s.kse n.toNat (s.kse.stagedBytes n.toNat))

end Sys2Proof.Machine
end

section
/-! A digest over chunks: only the bytes of the message matter (41_sponge.md R174), how many permutations it takes
(R179), and that a RESET KSE starts over (R185). -/

namespace Sys2Proof.Machine

/-! ### One chunk -/

theorem chunk_length_toNat {n : Nat} (h : n ≤ 8) : (BitVec.ofNat 4 n).toNat = n := by
  rw [BitVec.toNat_ofNat, Nat.mod_eq_of_lt (by omega)]

/-- `k` with the bytes staged and accepted as the operand of a command. -/
def Kse.withChunkPending (k : Kse) (op : PendOp) (bs : List Byte) : Kse :=
  ((k.stage bs).setLocked true).setPend op bs

section WithChunkPending

variable (k : Kse) (op : PendOp) (bs : List Byte)

@[simp] theorem Kse.withChunkPending_done : (k.withChunkPending op bs).done = k.done := by
  simp [Kse.withChunkPending, Kse.stage]

@[simp] theorem Kse.withChunkPending_locked : (k.withChunkPending op bs).locked = true := by
  simp [Kse.withChunkPending, Kse.stage]

@[simp] theorem Kse.withChunkPending_err : (k.withChunkPending op bs).err = k.err := by
  simp [Kse.withChunkPending, Kse.stage]

theorem sameSponge_withChunkPending : (k.withChunkPending op bs).SameSponge k := by
  constructor <;> simp [Kse.withChunkPending, Kse.stage]

theorem sameSponge_clearPend : k.clearPend.SameSponge k := ⟨rfl, rfl, rfl, rfl, rfl, rfl⟩

end WithChunkPending

section Chunk

variable {k : Kse} {bs : List Byte}

/-- STAGE and CMDW ABSORB at an idle KSE: the command is accepted with the chunk as its bytes, and completed. -/
theorem writeChunk_eq (hb : k.busy = false) (hd : k.done = false) (h : bs.length ≤ 8) :
    k.writeChunk bs = (k.withChunkPending .absorb bs).completeAbsorb bs := by
  have hn := chunk_length_toNat h
  have haccept : (k.stage bs).commandWrite (absorbWord bs.length) =
      k.withChunkPending .absorb bs := by
    rw [absorbWord, commandWrite_absorb _ (hn.trans_le h),
      effect_absorb_of_idle (k := k.stage bs) hb hd (hn.trans_le h), hn, Kse.acceptAbsorb, stage_stagedBytes k h,
      Kse.withChunkPending]
  exact congrArg Kse.engine haccept

theorem finalizeChunk_eq (hb : k.busy = false) (hd : k.done = false) (h : bs.length ≤ 8) :
    k.finalizeChunk bs = (k.withChunkPending .finalize bs).completeFinalize bs := by
  have hn := chunk_length_toNat h
  have haccept : (k.stage bs).commandWrite (finalizeWord bs.length) =
      k.withChunkPending .finalize bs := by
    rw [finalizeWord, commandWrite_finalize _ (hn.trans_le h),
      effect_finalize_of_idle (k := k.stage bs) hb hd (hn.trans_le h), hn, Kse.acceptFinalize, stage_stagedBytes k h,
      Kse.withChunkPending]
  exact congrArg Kse.engine haccept

end Chunk

/-! ### What a message leaves, whatever its chunks -/

/-- `k'` is idle and has the sponge of `k` after the bytes `m`. -/
structure Kse.Absorbed (k : Kse) (m : List Byte) (k' : Kse) : Prop where
  sponge : k'.SameSponge (k.absorbBytes m)
  busy : k'.busy = false
  done : k'.done = false
  err : k'.err = k.err

theorem absorbed_nil {k : Kse} (hb : k.busy = false) (hd : k.done = false) : k.Absorbed [] k :=
  ⟨sameSponge_refl k, hb, hd, rfl⟩

theorem Kse.Absorbed.trans {k k' k'' : Kse} {a b : List Byte} (h : k.Absorbed a k') (h' : k'.Absorbed b k'') :
    k.Absorbed (a ++ b) k'' where
  sponge := by
    rw [absorbBytes_append]
    exact h'.sponge.trans (sameSponge_absorbBytes b h.sponge)
  busy := h'.busy
  done := h'.done
  err := h'.err.trans h.err

theorem writeChunk_absorbed {k : Kse} {bs : List Byte} (hb : k.busy = false) (hd : k.done = false)
    (h : bs.length ≤ 8) : k.Absorbed bs (k.writeChunk bs) := by
  have hsame := sameSponge_withChunkPending k .absorb bs
  obtain ⟨S, m, c, haccepted, hk⟩ := absorbBytes_sameUpdate hsame bs
  rw [writeChunk_eq hb hd h, Kse.completeAbsorb, haccepted]
  refine ⟨?_, Kse.clearPend_busy _, by simpa using hd, by simp⟩
  rw [hk]
  exact (sameSponge_clearPend _).trans (sameSponge_setSponge hsame S m c)

theorem writeChunks_absorbed (cs : List (List Byte)) {k : Kse} (hb : k.busy = false) (hd : k.done = false)
    (h : ∀ c ∈ cs, c.length ≤ 8) : k.Absorbed cs.flatten (k.writeChunks cs) := by
  induction cs generalizing k with
  | nil => exact absorbed_nil hb hd
  | cons c cs ih =>
    have hc := writeChunk_absorbed hb hd (h c List.mem_cons_self)
    exact hc.trans (ih hc.busy hc.done fun c' hc' => h c' (List.mem_cons_of_mem c hc'))

/-- `k'` holds the digest of the bytes `m` after those that `k` has absorbed. -/
structure Kse.Digested (k : Kse) (m : List Byte) (k' : Kse) : Prop where
  lanes : k'.lanes = (k.completeFinalize m).lanes
  dout : k'.dout = (k.completeFinalize m).dout
  permCount : k'.permCount = (k.completeFinalize m).permCount
  abuf : k'.abuf = []
  busy : k'.busy = false
  done : k'.done = true
  locked : k'.locked = true
  err : k'.err = k.err

theorem completeFinalize_abuf (k : Kse) (bs : List Byte) : (k.completeFinalize bs).abuf = [] := by
  rw [Kse.completeFinalize, Kse.clearPend_abuf, Kse.setDone_abuf, Kse.setDout_abuf, squeeze_absorbPadded_abuf]

/-- The digest of a message in chunks is that of its bytes. -/
theorem digest_of_chunks {k : Kse} {cs : List (List Byte)} {e : List Byte} (hb : k.busy = false) (hd : k.done = false)
    (hcs : ∀ c ∈ cs, c.length ≤ 8) (he : e.length ≤ 8) :
    k.Digested (cs.flatten ++ e) ((k.writeChunks cs).finalizeChunk e) := by
  have habs := writeChunks_absorbed cs hb hd hcs
  have hsame := (sameSponge_withChunkPending (k.writeChunks cs) .finalize e).trans habs.sponge
  obtain ⟨S, m, c, v, hk', hk⟩ := completeFinalize_sameUpdate hsame e
  have habuf := completeFinalize_abuf (k.absorbBytes cs.flatten) e
  rw [finalizeChunk_eq habs.busy habs.done he, hk']
  rw [hk] at habuf
  rw [completeFinalize_absorbBytes] at hk
  exact
    { lanes := by simp [hk]
      dout := by simp [hk]
      permCount := by simp [hk]
      abuf := habuf
      busy := by simp
      done := by simp
      locked := by simp
      err := by simpa using habs.err }

/-- Settles O52: both ways to cut the message leave what its bytes leave. -/
theorem chunkingDoesNotChangeTheDigest : Obligations.ChunkingDoesNotChangeTheDigest := by
  intro k c₁ c₂ e hb _ hd h₁ h₂ he hflat
  have a₁ := (writeChunks_absorbed c₁ hb hd h₁).sponge
  have a₂ := (writeChunks_absorbed c₂ hb hd h₂).sponge
  have d₁ := digest_of_chunks hb hd h₁ he
  have d₂ := digest_of_chunks hb hd h₂ he
  rw [hflat] at a₁ d₁
  exact ⟨a₁.lanes.trans a₂.lanes.symm, a₁.abuf.trans a₂.abuf.symm, a₁.permCount.trans a₂.permCount.symm,
    d₁.dout.trans d₂.dout.symm, d₁.permCount.trans d₂.permCount.symm⟩

/-! ### How many permutations -/

/-- ceil(OUT / RATE) - 1 is floor((OUT - 1) / RATE). -/
theorem ceilDiv_sub_one {out rate : Nat} (hout : 1 ≤ out) (hrate : 0 < rate) :
    (out + rate - 1) / rate - 1 = (out - 1) / rate := by
  rw [show out + rate - 1 = out - 1 + rate by omega, Nat.add_div_right _ hrate, Nat.succ_sub_one]

/-- Settles O53: the blocks of the message, the padded block, and the permutations of the squeeze. -/
theorem permutationCountOfADigest : Obligations.PermutationCountOfADigest := by
  intro k c e hinv hb hd habuf hcount hc he rate out k'
  obtain ⟨⟨hrate, -⟩, -, hout, -⟩ := hinv.config
  have hdigest := digest_of_chunks hb hd hc he
  refine ⟨?_, hdigest.done, hdigest.busy⟩
  rw [hdigest.permCount, completeFinalize_eq hinv.abuf_lt_rate hout, ceilDiv_sub_one hout hrate]
  simp only [hcount, habuf, List.nil_append, List.length_append]
  exact BitVec.zero_add _

/-! ### RESET -/

/-- RESET accepted and completed at an idle KSE (R184). -/
theorem reset_command_completed {k : Kse} (hb : k.busy = false) :
    (k.commandWrite 0x00000001).engine = k.acceptReset.completeReset := by
  have hword : k.commandWrite 0x00000001 = k.acceptReset :=
    (commandWrite_reset k).trans (effect_reset_of_idle hb)
  rw [hword]
  rfl

/-- The same bytes give the same digest at two idle KSEs of the same sponge and CONFIG. -/
theorem digest_of_sameSponge {a b a' b' : Kse} {m : List Byte} (h : a.SameSponge b) (ha : a.Digested m a')
    (hb : b.Digested m b') : a'.dout = b'.dout ∧ a'.permCount = b'.permCount ∧ a'.lanes = b'.lanes := by
  obtain ⟨S, r, c, v, hfa, hfb⟩ := completeFinalize_sameUpdate h m
  rw [ha.dout, ha.permCount, ha.lanes, hb.dout, hb.permCount, hb.lanes, hfa, hfb]
  exact ⟨rfl, rfl, rfl⟩

/-- STATUS after a digest shows the error that stood before it, and nothing else of the history. -/
theorem digested_statusWord {k k' : Kse} {m : List Byte} (h : k.Digested m k') :
    k'.statusWord k'.abufCount =
      { Kse.reset with done := true, locked := true, err := k.err }.statusWord 0 := by
  rw [Kse.statusWord, Kse.abufCount, h.abuf, h.busy, h.done, h.locked, h.err]
  rfl

/-- Settles O54: RESET leaves the sponge, DONE and ERR of a fresh KSE. -/
theorem resetReproducesTheDigest : Obligations.ResetReproducesTheDigest := by
  intro k c e hb hc he a fresh b
  have hreset := reset_command_completed hb
  have hsame : k.acceptReset.completeReset.SameSponge fresh := ⟨rfl, rfl, rfl, rfl, rfl, rfl⟩
  have da : k.acceptReset.completeReset.Digested (c.flatten ++ e) a := by
    have h := digest_of_chunks (k := k.acceptReset.completeReset) (cs := c) (e := e) rfl rfl hc he
    rwa [← hreset] at h ⊢
  have db : fresh.Digested (c.flatten ++ e) b := digest_of_chunks rfl rfl hc he
  obtain ⟨hdout, hcount, hlanes⟩ := digest_of_sameSponge hsame da db
  refine ⟨hdout, hcount, hlanes, ?_⟩
  rw [digested_statusWord da, digested_statusWord db]
  rfl

end Sys2Proof.Machine
end

section
/-! The permutation (40_permutation.md): the step formulas, the tables, the datapath variants, and that no state is
lost. -/

namespace Sys2Proof.Machine

/-! ### The step formulas and the tables -/

theorem at_mod_left (A : Lanes) (x y : Nat) : A.at (x % 5) y = A.at x y := by
  simp only [Lanes.at, Nat.mod_mod]

theorem thetaC_mod (A : Lanes) (x : Nat) : thetaC A (x % 5) = thetaC A x := by
  simp only [thetaC, at_mod_left]

theorem thetaD_mod (A : Lanes) (x : Nat) : thetaD A (x % 5) = thetaD A x := by
  rw [thetaD, thetaD, ← thetaC_mod A (x + 4), ← thetaC_mod A (x + 1), ← thetaC_mod A (x % 5 + 4),
    ← thetaC_mod A (x % 5 + 1), Nat.mod_add_mod, Nat.mod_add_mod]

/-- Settles O45, from the lane of each built state; indices are taken mod 5. -/
theorem keccakStepFormulas : Obligations.KeccakStepFormulas := by
  intro A ir x y hx hy C
  refine ⟨?theta, rho_at A x y, ?pi, ?chi, ?iota, rfl⟩
  case theta =>
    rw [theta_at, thetaD_mod, thetaD, ← thetaC_mod A (x + 4), ← thetaC_mod A (x + 1)]
    rfl
  case pi => rw [piStep_at, at_mod_left]
  case chi => rw [chi_at, at_mod_left, at_mod_left]
  case iota =>
    by_cases hxy : x = 0 ∧ y = 0
    · obtain ⟨rfl, rfl⟩ := hxy
      exact iota_at_zero ir A
    · rw [if_neg hxy, iota_at_other ir A (by omega)]

/-- Settles O46: 24 steps of the walk and 24 round constants, by evaluation. -/
theorem tablesMatchTheirGenerators : Obligations.TablesMatchTheirGenerators := by
  unfold Obligations.TablesMatchTheirGenerators
  decide

/-- Settles O47, by evaluation of the 24 rounds. -/
theorem keccakOfTheZeroState : Obligations.KeccakOfTheZeroState := by
  unfold Obligations.KeccakOfTheZeroState
  decide +kernel

/-! ### The datapath variants -/

/-- `n` cycles of `k` rounds are the first `n * k` rounds in order. -/
theorem foldl_datapathCycle (k n : Nat) (S : Lanes) :
    (List.range n).foldl (datapathCycle k) S = (List.range (n * k)).foldl rnd S := by
  induction n with
  | zero => rw [Nat.zero_mul, List.range_zero, List.foldl_nil, List.foldl_nil]
  | succ n ih =>
    rw [List.range_succ, List.foldl_append, ih, List.foldl_cons, List.foldl_nil, datapathCycle, Nat.succ_mul,
      List.range_add, List.foldl_append, List.foldl_map]

/-- Settles O48: every legal number of rounds per cycle divides 24. -/
theorem datapathVariantsAgree : Obligations.DatapathVariantsAgree := by
  intro v S
  have hdvd : 24 / v.rounds * v.rounds = 24 := by cases v <;> rfl
  rw [datapath, foldl_datapathCycle, hdvd, keccakF]

/-! ### Rotations -/

theorem rot64_getLsbD (a : Lane) (n : Nat) {i : Nat} (hi : i < 64) :
    (rot64 a n).getLsbD i = a.getLsbD ((i + 64 - n % 64) % 64) := by
  rw [rot64, BitVec.getLsbD_rotateLeft]
  by_cases h : i < n % 64
  · rw [decide_eq_true h, cond_true, show 64 - n % 64 + i = (i + 64 - n % 64) % 64 by omega]
  · rw [decide_eq_false h, cond_false, decide_eq_true hi, Bool.true_and,
      show i - n % 64 = (i + 64 - n % 64) % 64 by omega]

theorem rot64_rot64 (a : Lane) (m n : Nat) : rot64 (rot64 a m) n = rot64 a (m + n) := by
  apply BitVec.eq_of_getLsbD_eq
  intro i hi
  rw [rot64_getLsbD _ _ hi, rot64_getLsbD _ _ (Nat.mod_lt _ (by decide)), rot64_getLsbD _ _ hi]
  congr 1
  omega

theorem rot64_of_mod_eq_zero (a : Lane) {n : Nat} (hn : n % 64 = 0) : rot64 a n = a := by
  apply BitVec.eq_of_getLsbD_eq
  intro i hi
  rw [rot64_getLsbD _ _ hi]
  congr 1
  omega

theorem rot64_xor (a b : Lane) (n : Nat) : rot64 (a ^^^ b) n = rot64 a n ^^^ rot64 b n := by
  apply BitVec.eq_of_getLsbD_eq
  intro i hi
  rw [BitVec.getLsbD_xor, rot64_getLsbD _ _ hi, rot64_getLsbD _ _ hi, rot64_getLsbD _ _ hi, BitVec.getLsbD_xor]

/-- The rotation by the remaining distance undoes a rotation. -/
theorem rot64_injective (n : Nat) : Function.Injective fun a : Lane => rot64 a n :=
  Function.LeftInverse.injective (g := fun a => rot64 a (64 - n % 64)) fun a =>
    (rot64_rot64 a n _).trans (rot64_of_mod_eq_zero a (by omega))

/-! ### ρ, π, χ and ι lose nothing -/

theorem rho_injective : Function.Injective rho := by
  intro A B h
  refine lanes_ext fun x _ y _ => rot64_injective (rhoOffset x y) ?_
  have hlane := congrArg (·.at x y) h
  simpa only [rho_at] using hlane

/-- Lane (x, y) moves to (y, 2x + 3y) (R134). -/
theorem piStep_injective : Function.Injective piStep := by
  intro A B h
  refine lanes_ext fun x _ y _ => ?_
  have hlane := congrArg (·.at y (2 * x + 3 * y)) h
  have hx : (y + 3 * (2 * x + 3 * y)) % 5 = x % 5 := by omega
  simp only [piStep_at] at hlane
  rwa [← at_mod_left A, ← at_mod_left B, hx, at_mod_left, at_mod_left] at hlane

/-- One bit of a row after χ. -/
def chiBit (a b c : Bool) : Bool := a ^^ (!b && c)

/-- χ on a row of five bits can be undone. -/
theorem chiBit_row_injective : ∀ a b c d e a' b' c' d' e' : Bool,
    chiBit a b c = chiBit a' b' c' → chiBit b c d = chiBit b' c' d' → chiBit c d e = chiBit c' d' e' →
    chiBit d e a = chiBit d' e' a' → chiBit e a b = chiBit e' a' b' → a = a' := by
  decide

theorem at_add_five (A : Lanes) (x y : Nat) : A.at (x + 5) y = A.at x y := by
  rw [← at_mod_left, Nat.add_mod_right, at_mod_left]

theorem chi_injective : Function.Injective chi := by
  intro A B h
  refine lanes_ext fun x _ y _ => BitVec.eq_of_getLsbD_eq fun i hi => ?_
  have hbit (z : Nat) : chiBit ((A.at z y).getLsbD i) ((A.at (z + 1) y).getLsbD i) ((A.at (z + 2) y).getLsbD i) =
      chiBit ((B.at z y).getLsbD i) ((B.at (z + 1) y).getLsbD i) ((B.at (z + 2) y).getLsbD i) := by
    have hlane := congrArg (fun L : Lanes => (L.at z y).getLsbD i) h
    simpa [chi_at, chiBit, hi] using hlane
  have h3 := hbit (x + 3)
  have h4 := hbit (x + 4)
  rw [at_add_five A x, at_add_five B x] at h3
  rw [at_add_five A x, at_add_five A (x + 1), at_add_five B x, at_add_five B (x + 1)] at h4
  exact chiBit_row_injective _ _ _ _ _ _ _ _ _ _ (hbit x) (hbit (x + 1)) (hbit (x + 2)) h3 h4

theorem iota_injective (ir : Nat) : Function.Injective (iota ir) := by
  intro A B h
  refine lanes_ext fun x hx y hy => ?_
  have hlane := congrArg (·.at x y) h
  by_cases hxy : x = 0 ∧ y = 0
  · obtain ⟨rfl, rfl⟩ := hxy
    simp only [iota_at_zero] at hlane
    exact (BitVec.xor_left_inj _).mp hlane
  · have hother : x % 5 ≠ 0 ∨ y % 5 ≠ 0 := by omega
    simpa only [iota_at_other ir _ hother] using hlane

/-! ### θ loses nothing

For two states with the same θ, the difference C of their column parities satisfies C[x] = C[x-1] ^ ROT64(C[x+1], 1).
Applied to itself, this equation holds for the double distances too; at distance 64 the rotation is gone, and the five
equations that are left have only the solution 0. -/

theorem xor_cycle_of_five_eq_false : ∀ a b c d e : Bool,
    a = (b ^^ e) → b = (c ^^ a) → c = (d ^^ b) → d = (e ^^ c) → e = (a ^^ d) → a = false := by
  decide

section ColumnParity

variable {C : Nat → Lane} (hperiod : ∀ x, C (x + 5) = C x)

include hperiod

theorem parity_add_five_mul (x n : Nat) : C (x + 5 * n) = C x := by
  induction n with
  | zero => rfl
  | succ n ih => rw [Nat.mul_succ, ← Nat.add_assoc, hperiod, ih]

theorem parity_double {a : Nat} (h : ∀ x, C x = C (x + 4 * a) ^^^ rot64 (C (x + a)) a) (x : Nat) :
    C x = C (x + 4 * (2 * a)) ^^^ rot64 (C (x + 2 * a)) (2 * a) := by
  have hleft : C (x + 4 * a) = C (x + 4 * (2 * a)) ^^^ rot64 (C x) a := by
    rw [h (x + 4 * a), show x + 4 * a + 4 * a = x + 4 * (2 * a) by omega, show x + 4 * a + a = x + 5 * a by omega,
      parity_add_five_mul hperiod]
  have hright : C (x + a) = C x ^^^ rot64 (C (x + 2 * a)) a := by
    rw [h (x + a), show x + a + 4 * a = x + 5 * a by omega, show x + a + a = x + 2 * a by omega,
      parity_add_five_mul hperiod]
  calc C x
    _ = C (x + 4 * a) ^^^ rot64 (C (x + a)) a := h x
    _ = (C (x + 4 * (2 * a)) ^^^ rot64 (C x) a) ^^^ (rot64 (C x) a ^^^ rot64 (C (x + 2 * a)) (2 * a)) := by
      rw [hleft, hright, rot64_xor, rot64_rot64, ← Nat.two_mul]
    _ = C (x + 4 * (2 * a)) ^^^ rot64 (C (x + 2 * a)) (2 * a) := by
      rw [BitVec.xor_assoc, ← BitVec.xor_assoc (rot64 (C x) a), BitVec.xor_self, BitVec.zero_xor]

/-- The equation at distance 64, where 64 = 4 and 256 = 1 mod 5. -/
theorem parity_unrotated (h : ∀ x, C x = C (x + 4) ^^^ rot64 (C (x + 1)) 1) (x : Nat) :
    C x = C (x + 1) ^^^ C (x + 4) := by
  have h2 := parity_double hperiod (a := 1) h
  have h4 := parity_double hperiod (a := 2) h2
  have h8 := parity_double hperiod (a := 4) h4
  have h16 := parity_double hperiod (a := 8) h8
  have h32 := parity_double hperiod (a := 16) h16
  have h64 := parity_double hperiod (a := 32) h32 x
  rw [rot64_of_mod_eq_zero _ rfl] at h64
  rw [h64, ← parity_add_five_mul hperiod (x + 1) 51, ← parity_add_five_mul hperiod (x + 4) 12]

theorem parity_eq_zero (h : ∀ x, C x = C (x + 4) ^^^ rot64 (C (x + 1)) 1) (x : Nat) : C x = 0 := by
  apply BitVec.eq_of_getLsbD_eq
  intro i _
  have hbit (z : Nat) : (C z).getLsbD i = ((C (z + 1)).getLsbD i ^^ (C (z + 4)).getLsbD i) := by
    rw [← BitVec.getLsbD_xor, ← parity_unrotated hperiod h]
  have h1 := hbit (x + 1)
  have h2 := hbit (x + 2)
  have h3 := hbit (x + 3)
  have h4 := hbit (x + 4)
  rw [hperiod x] at h1 h4
  rw [hperiod (x + 1)] at h2
  rw [hperiod (x + 2)] at h3
  rw [hperiod (x + 3)] at h4
  rw [xor_cycle_of_five_eq_false _ _ _ _ _ (hbit x) h1 h2 h3 h4]
  exact BitVec.getLsbD_zero.symm

end ColumnParity

theorem xor_eq_xor_of_xor_eq_xor {a b c d : Lane} (h : a ^^^ c = b ^^^ d) : a ^^^ b = c ^^^ d :=
  calc a ^^^ b
    _ = (a ^^^ c) ^^^ (c ^^^ b) := by rw [BitVec.xor_assoc, ← BitVec.xor_assoc c, BitVec.xor_self, BitVec.zero_xor]
    _ = (c ^^^ d) ^^^ (b ^^^ b) := by
      rw [h]
      ac_rfl
    _ = c ^^^ d := by rw [BitVec.xor_self, BitVec.xor_zero]

theorem theta_injective : Function.Injective theta := by
  intro A B h
  have hlane (x y : Nat) : A.at x y ^^^ thetaD A x = B.at x y ^^^ thetaD B x := by
    have hxy := congrArg (·.at x y) h
    simpa only [theta_at, thetaD_mod] using hxy
  have hdiff (x y : Nat) : A.at x y ^^^ B.at x y = thetaD A x ^^^ thetaD B x := xor_eq_xor_of_xor_eq_xor (hlane x y)
  have hparity (x : Nat) : thetaC A x ^^^ thetaC B x = thetaD A x ^^^ thetaD B x :=
    calc thetaC A x ^^^ thetaC B x
      _ = (A.at x 0 ^^^ B.at x 0) ^^^ (A.at x 1 ^^^ B.at x 1) ^^^ (A.at x 2 ^^^ B.at x 2) ^^^
          (A.at x 3 ^^^ B.at x 3) ^^^ (A.at x 4 ^^^ B.at x 4) := by
        simp only [thetaC]
        ac_rfl
      _ = thetaD A x ^^^ thetaD B x := by
        simp only [hdiff]
        rw [BitVec.xor_self, BitVec.zero_xor, BitVec.xor_self, BitVec.zero_xor]
  have hzero (x : Nat) : thetaC A x ^^^ thetaC B x = 0 := by
    refine parity_eq_zero (C := fun x => thetaC A x ^^^ thetaC B x) (fun x => ?_) (fun x => ?_) x
    · simp only [thetaC, at_add_five]
    · simp only [hparity x, thetaD, rot64_xor]
      ac_rfl
  refine lanes_ext fun x _ y _ => BitVec.xor_eq_zero_iff.mp ?_
  rw [hdiff, ← hparity, hzero]
  rfl

/-! ### The rounds -/

theorem rnd_injective (ir : Nat) : Function.Injective fun A => rnd A ir :=
  (iota_injective ir).comp <| chi_injective.comp <| piStep_injective.comp <| rho_injective.comp theta_injective

theorem foldl_rnd_injective (rounds : List Nat) : Function.Injective fun S : Lanes => rounds.foldl rnd S := by
  induction rounds with
  | nil => exact Function.injective_id
  | cons ir rounds ih => exact ih.comp (rnd_injective ir)

/-- Settles O49: each step mapping can be undone, so each round can, and so the 24 rounds can. -/
theorem keccakIsInjective : Obligations.KeccakIsInjective := foldl_rnd_injective (List.range 24)

end Sys2Proof.Machine
end

section
/-! Steps (00_scope.md R14): which turn is run, the host's and the engine's step, hardware reset, and what moves DONE
and LOCKED. -/

namespace Sys2Proof.Machine

/-! ### Which turn is run -/

theorem step_of_head {s : State} {u : Turn} (h : s.turns.head? = some u) :
    step s = runTurn u { s with turns := s.turns.tail } := by
  obtain ⟨rest, hrest⟩ := List.head?_eq_some_iff.mp h
  rw [step_of_cons hrest, hrest, List.tail_cons]

theorem step_of_no_turns {s : State} (h : s.turns = []) :
    step s = runTurn (if s.kse.pend.isSome then .engine else .host) { s with turns := s.turns.tail } := by
  rw [step_of_nil h, h, List.tail_nil, ← h]

/-- The engine moves on its own turn, and where no turn is left and a command is pending. -/
theorem step_of_engine {s : State} (h : s.turns.head? = some .engine ∨ (s.turns = [] ∧ s.kse.pend ≠ none)) :
    step s = .next (engineStep { s with turns := s.turns.tail }) := by
  rcases h with h | ⟨h, hp⟩
  · exact step_of_head h
  · rw [step_of_no_turns h, if_pos (Option.isSome_iff_ne_none.mpr hp)]
    rfl

/-- The host moves on its own turn, and where no turn is left and nothing is pending. -/
theorem step_of_host {s : State} (h : s.turns.head? = some .host ∨ (s.turns = [] ∧ s.kse.pend = none)) :
    step s = hostStep { s with turns := s.turns.tail } := by
  rcases h with h | ⟨h, hp⟩
  · exact step_of_head h
  · rw [step_of_no_turns h, hp]
    rfl

/-- Settles O43. -/
theorem stepCompletesThePendingCommand : Obligations.StepCompletesThePendingCommand := fun _ h => step_of_engine h

/-! ### The host's access -/

theorem access_of_decode {p : PortWord} {i : Instr} (h : decode p = .ok i) {s : State} (hr : s.rstN = true) :
    access p s = exec i s := by
  rw [access, if_pos hr, h]

/-- A statement with an access runs the instruction its word decodes to. -/
theorem step_of_access {s : State} {st : HostStmt} {p : PortWord} {i : Instr}
    (hturn : s.turns.head? = some .host ∨ (s.turns = [] ∧ s.kse.pend = none)) (hst : s.host.current = some st)
    (hp : st.portWord = some p) (hr : s.rstN = true) (hi : decode p = .ok i) :
    step s = thenNext (exec i (advanceHost { s with turns := s.turns.tail })) (latch st.dest) := by
  rw [step_of_host hturn, hostStep_of_portWord (s := { s with turns := s.turns.tail }) hst hp,
    access_of_decode hi (by simpa using hr)]

/-- The statement placed for a word brings a word that decodes to the same instruction; a read's data is dropped. -/
theorem decode_portWord_stmtOf {p : PortWord} {i : Instr} (h : decode p = .ok i) :
    ∃ p', (stmtOf p).portWord = some p' ∧ decode p' = .ok i := by
  cases p with
  | cmd w => exact ⟨_, rfl, h⟩
  | bus op d =>
    obtain ⟨hw, he⟩ := encodedAs_of_decodeBus op d i h
    refine ⟨.bus op (if busWrites op then d else 0), ?_, he ▸ decode_encode hw⟩
    have hop := busOp_fields op
    rw [stmtOf]
    cases hb : busWrites op with
    | true =>
      rw [hb] at hop
      exact congrArg (fun o => some (PortWord.bus o d)) hop
    | false =>
      rw [hb] at hop
      exact congrArg (fun o => some (PortWord.bus o 0)) hop

/-- The host stands before a statement that was placed. -/
theorem placeStmt_current (st : HostStmt) (s : State) : (placeStmt st s).host.current = some st := by
  have hlen : (s.host.prog.take s.host.next).length = min s.host.next s.host.prog.length := List.length_take
  simp only [placeStmt, HostAgent.current, Bool.false_eq_true, if_false]
  rw [List.getElem?_append_right hlen.le, hlen, Nat.sub_self, List.getElem?_cons_zero]

theorem decodeTableWord_eq_some {nbits w : Nat} {i : Instr} (h : decodeTableWord nbits w = some i) :
    ∃ p, tableWord nbits w = some p ∧ decode p = .ok i := by
  unfold decodeTableWord at h
  split at h
  · next p hp =>
    refine ⟨p, hp, ?_⟩
    cases hd : decode p with
    | ok j =>
      rw [hd] at h
      exact congrArg Except.ok (Option.some.inj h)
    | error e =>
      rw [hd] at h
      cases h
  · cases h

/-- Settles O42: the second clause is the first one at the statement that was placed. -/
theorem stepRunsTheDecodedInstruction : Obligations.StepRunsTheDecodedInstruction := by
  refine ⟨fun s st p i hturn hst hp hr hi => step_of_access hturn hst hp hr hi, fun s nbits w i h => ?_⟩
  obtain ⟨p, hp, hi⟩ := decodeTableWord_eq_some h
  obtain ⟨p', hport, hi'⟩ := decode_portWord_stmtOf hi
  have hplaced : s.withFetchWord nbits w = placeStmt (stmtOf p) s := by
    rw [State.withFetchWord, placeTableWord, hp]
  rw [hplaced]
  exact ⟨_, _, step_of_access (.inl rfl) (placeStmt_current _ s) hport rfl hi', rfl, rfl, rfl, rfl⟩

/-! ### The host's branches -/

theorem hostStep_of_local {s : State} {st : HostStmt} (hst : s.host.current = some st) (hp : st.portWord = none) :
    hostStep s = localStep st s := by
  simp only [hostStep, hst, hp]

theorem localStep_of_ok {s : State} {st : HostStmt} {h : HostAgent} (hr : s.host.runLocal st = .ok h) :
    localStep st s = .next { s with host := h } := by
  rw [localStep, hr]

/-- A branch that is taken: the host continues at the label, or faults where there is none (R110, log 4). -/
def branchStep (l : Nat) (s : State) : Host.Outcome State Fault Refusal :=
  match s.host.target l with
  | some n => .next { s with host := { s.host with next := n } }
  | none => .fault (.unboundLabel l)

theorem localStep_of_branch {s : State} {st : HostStmt} {l : Nat} (hr : s.host.runLocal st = s.host.branch l) :
    localStep st s = branchStep l s := by
  rw [localStep, hr, HostAgent.branch, branchStep]
  cases s.host.target l <;> rfl

/-- Settles O55. -/
theorem hostBranches : Obligations.HostBranches := by
  intro s rest t mask l s' onward taken
  have htaken : taken = branchStep l { s with turns := rest } := rfl
  have hstep {st : HostStmt} (hst : s.host.current = some st) (hp : st.portWord = none) :
      step s' = localStep st { s with turns := rest } :=
    (step_of_cons (s := s') rfl).trans (hostStep_of_local (s := { s with turns := rest }) hst hp)
  rw [htaken]
  refine ⟨?bnz, ?bz, ?jmp, ?label, ?halt⟩
  case bnz =>
    intro hst
    rw [hstep hst rfl]
    split
    · next hm => exact localStep_of_branch (if_pos hm)
    · next hm => exact localStep_of_ok (if_neg hm)
  case bz =>
    intro hst
    rw [hstep hst rfl]
    split
    · next hm => exact localStep_of_branch (if_pos hm)
    · next hm => exact localStep_of_ok (if_neg hm)
  case jmp =>
    intro hst
    rw [hstep hst rfl]
    exact localStep_of_branch rfl
  case label =>
    intro hst
    rw [hstep hst rfl]
    rfl
  case halt =>
    intro hst
    rw [hstep hst rfl]
    rfl

/-! ### Hardware reset -/

/-- What a step that goes on has done to the KSE; a reset only at an edge of `rst_n`. -/
theorem step_kse_cases {s t : State} (h : step s = .next t) :
    t.kse = s.kse ∨ (s.rstN = true ∧ ∃ i, t.kse = s.kse.effect i) ∨ t.kse = s.kse.engine ∨
    (s.turns.head? = some .rstLow ∧ t.kse = Kse.reset) ∨ (s.rstN = false ∧ t.kse = Kse.reset) := by
  cases hturns : s.turns with
  | nil =>
    rw [step_of_nil hturns] at h
    split at h
    · cases h
      exact .inr (.inr (.inl rfl))
    · obtain ⟨-, -, -, hk⟩ := hostStep_next h
      exact hk.imp_right .inl
  | cons u rest =>
    rw [step_of_cons hturns] at h
    cases u with
    | host =>
      obtain ⟨-, -, -, hk⟩ := hostStep_next h
      exact hk.imp_right .inl
    | engine =>
      cases h
      exact .inr (.inr (.inl rfl))
    | rstLow =>
      cases h
      exact .inr (.inr (.inr (.inl ⟨rfl, rfl⟩)))
    | rstHigh =>
      simp only [runTurn, releaseReset] at h
      split at h
      · cases h
        exact .inl rfl
      · next hr =>
        cases h
        exact .inr (.inr (.inr (.inr ⟨by simpa using hr, rfl⟩)))

/-- An access made while BUSY = 1 leaves BUSY and PEND. -/
theorem effect_of_busy_keeps_pending {k : Kse} (hb : k.busy = true) (i : Instr) :
    (k.effect i).busy = k.busy ∧ (k.effect i).pend = k.pend := by
  obtain ⟨e, a, b, lo, hi, h⟩ := effect_of_busy hb i
  rw [h]
  exact ⟨rfl, rfl⟩

/-- Settles O36. -/
theorem hardwareReset : Obligations.HardwareReset := by
  unfold Obligations.HardwareReset
  intro k
  refine ⟨fun s rest => ⟨?low, ?high⟩, ?held, ?abandoned, by decide⟩
  case low => exact step_of_cons (s := { s with turns := .rstLow :: rest }) rfl
  case high => exact step_of_cons (s := { s with turns := .rstHigh :: rest, rstN := false }) rfl
  case held =>
    intro s t hr hs h
    rcases step_kse_cases h with ht | ⟨hr', -⟩ | ht | ⟨-, ht⟩ | ⟨-, ht⟩
    · rw [ht, hs]
    · exact absurd hr' (ne_true_of_eq_false hr)
    · rw [ht, hs]
      rfl
    · exact ht
    · exact ht
  case abandoned =>
    intro s t p hinv hp h
    rcases step_kse_cases h with ht | ⟨-, i, ht⟩ | ht | ⟨hlow, ht⟩ | ⟨hr, -⟩
    · exact .inl (by rw [ht, hp])
    · left
      rw [ht, (effect_of_busy_keeps_pending (hinv.kse.busy_eq_true hp) i).2, hp]
    · exact .inr (.inl ht)
    · exact .inr (.inr ⟨hlow, ht⟩)
    · rw [hinv.held hr] at hp
      cases hp

/-! ### A pending command is retired -/

/-- A step with a command pending retires it or leaves it pending, and takes one turn. -/
theorem step_of_pending {s t : State} (h : step s = .next t) (hb : s.kse.busy = true) (hp : s.kse.pend ≠ none) :
    t.turns = s.turns.tail ∧
    ((t.kse.pend = none ∧ t.kse.busy = false) ∨ (t.kse.busy = true ∧ t.kse.pend ≠ none)) := by
  refine ⟨(step_cases h).1, ?_⟩
  rcases step_kse_cases h with ht | ⟨-, i, ht⟩ | ht | ⟨-, ht⟩ | ⟨-, ht⟩
  · rw [ht]
    exact .inr ⟨hb, hp⟩
  · obtain ⟨hbusy, hpend⟩ := effect_of_busy_keeps_pending hb i
    rw [ht, hbusy, hpend]
    exact .inr ⟨hb, hp⟩
  · rw [ht]
    exact .inl (engine_retires hp)
  · rw [ht]
    exact .inl ⟨rfl, rfl⟩
  · rw [ht]
    exact .inl ⟨rfl, rfl⟩

theorem run_zero (s : State) : core.run 0 s = .next s := rfl

theorem run_succ {s t : State} (h : step s = .next t) (n : Nat) : core.run (n + 1) s = core.run n t := by
  have hcore : core.step s = .next t := h
  simp only [Host.Core.run, hcore]

/-- A run cannot go on from a state in which the step stops. -/
theorem run_one_ne_next {s : State} (h : ∀ t, step s ≠ .next t) (t : State) : core.run 1 s ≠ .next t := by
  intro hrun
  have hcore : ∀ u, core.step s ≠ .next u := h
  simp only [Host.Core.run] at hrun
  split at hrun
  · next u hu => exact hcore u hu
  · cases hrun
  · cases hrun

/-- After `n` steps from `s` the machine has stopped, or nothing is pending. -/
def RetiredBy (n : Nat) (s : State) : Prop :=
  (∀ t, core.run n s ≠ .next t) ∨ ∃ t, core.run n s = .next t ∧ t.kse.pend = none ∧ t.kse.busy = false

theorem retiredBy_one {s t : State} (h : step s = .next t) (ht : t.kse.pend = none ∧ t.kse.busy = false) :
    RetiredBy 1 s := .inr ⟨t, (run_succ h 0).trans (run_zero t), ht⟩

theorem retiredBy_succ {s t : State} (h : step s = .next t) {n : Nat} (ht : RetiredBy n t) : RetiredBy (n + 1) s := by
  rw [RetiredBy, run_succ h]
  exact ht

/-- Settles O44: one step for each turn that does not retire the command, and the engine's when no turn is left. -/
theorem pendingCommandIsRetired : Obligations.PendingCommandIsRetired := by
  intro s hb hp
  change ∃ n ≤ s.turns.length + 1, RetiredBy n s
  generalize hl : s.turns = l
  induction l generalizing s with
  | nil => exact ⟨1, Nat.le_refl 1, retiredBy_one (step_of_engine (.inr ⟨hl, hp⟩)) (engine_retires hp)⟩
  | cons u rest ih =>
    by_cases hstop : ∀ t, step s ≠ .next t
    case pos => exact ⟨1, Nat.le_add_left 1 _, .inl (run_one_ne_next hstop)⟩
    case neg =>
      obtain ⟨t, ht⟩ := not_forall_not.mp hstop
      obtain ⟨hturns, hretired | ⟨hb', hp'⟩⟩ := step_of_pending ht hb hp
      · exact ⟨1, Nat.le_add_left 1 _, retiredBy_one ht hretired⟩
      · rw [hl, List.tail_cons] at hturns
        obtain ⟨n, hn, hretired⟩ := ih t hb' hp' hturns
        exact ⟨n + 1, Nat.succ_le_succ hn, retiredBy_succ ht hretired⟩

/-! ### DONE and LOCKED -/

/-- What a completion makes of DONE and LOCKED: RESET clears both, FINALIZE sets DONE, ABSORB and PERMUTE leave them. -/
theorem complete_done_locked (k : Kse) (p : Pending) :
    (p.op = .reset ∧ (k.complete p).done = false ∧ (k.complete p).locked = false) ∨
    (p.op = .finalize ∧ (k.complete p).done = true ∧ (k.complete p).locked = k.locked) ∨
    ((k.complete p).done = k.done ∧ (k.complete p).locked = k.locked) := by
  obtain ⟨op, bytes⟩ := p
  cases op with
  | reset => exact .inl ⟨rfl, rfl, rfl⟩
  | absorb =>
    obtain ⟨S, m, c, hs⟩ := spongeOf_absorbBytes bytes k
    have hk : k.complete ⟨.absorb, bytes⟩ = (k.setSponge S m c).clearPend := congrArg Kse.clearPend hs
    rw [hk]
    exact .inr (.inr ⟨rfl, rfl⟩)
  | finalize =>
    obtain ⟨S, m, c, v, hs, -⟩ := completeFinalize_sameUpdate (sameSponge_refl k) bytes
    have hk : k.complete ⟨.finalize, bytes⟩ = k.withDigest S m c v := hs
    rw [hk]
    exact .inr (.inl ⟨rfl, rfl, rfl⟩)
  | permute => exact .inr (.inr ⟨rfl, rfl⟩)

/-- The same of the engine's step, where nothing may be pending. -/
theorem engine_done_locked (k : Kse) :
    (∃ b, k.pend = some { op := .reset, bytes := b } ∧ k.engine.done = false ∧ k.engine.locked = false) ∨
    (∃ b, k.pend = some { op := .finalize, bytes := b } ∧ k.engine.done = true ∧ k.engine.locked = k.locked) ∨
    (k.engine.done = k.done ∧ k.engine.locked = k.locked) := by
  cases hp : k.pend with
  | none =>
    rw [engine_of_none hp]
    exact .inr (.inr ⟨rfl, rfl⟩)
  | some p =>
    rw [engine_of_some hp]
    obtain ⟨op, bytes⟩ := p
    rcases complete_done_locked k ⟨op, bytes⟩ with ⟨hop, hd, hl⟩ | ⟨hop, hd, hl⟩ | h
    · cases hop
      exact .inl ⟨bytes, rfl, hd, hl⟩
    · cases hop
      exact .inr (.inl ⟨bytes, rfl, hd, hl⟩)
    · exact .inr (.inr h)

/-- An access leaves LOCKED, or it sets it with a command other than RESET becoming pending. -/
theorem effect_locked (k : Kse) (i : Instr) :
    (k.effect i).locked = k.locked ∨
    (k.busy = false ∧ (k.effect i).locked = true ∧ ∃ p, (k.effect i).pend = some p ∧ p.op ≠ .reset) := by
  rcases effect_cases k i with h | ⟨e, h⟩ | h | ⟨-, -, r, u, o, -, h⟩ | ⟨a, b, h⟩ | ⟨d, h⟩ | ⟨d, h⟩ | ⟨-, h⟩ |
    ⟨hb, h⟩ | ⟨hb, -, n, -, h | h⟩
  · exact .inl (by rw [h])
  · exact .inl (by rw [h, recordErr_locked])
  · exact .inl (by rw [h]; rfl)
  · exact .inl (by rw [h]; rfl)
  · exact .inl (by rw [h]; rfl)
  · exact .inl (by rw [h]; rfl)
  · exact .inl (by rw [h]; rfl)
  · exact .inl (by rw [h]; rfl)
  all_goals
    rw [h]
    exact .inr ⟨hb, rfl, _, rfl, fun hop => nomatch hop⟩

/-- Where DONE and LOCKED are cleared: a pending RESET has completed, or hardware reset. -/
def ClearedBy (k k' : Kse) : Prop :=
  (∃ b, k.pend = some { op := .reset, bytes := b } ∧ k' = k.engine) ∨ k' = Kse.reset

theorem step_done {s t : State} (h : step s = .next t) :
    t.kse.done = s.kse.done ∨
    (t.kse.done = true ∧ ∃ b, s.kse.pend = some { op := .finalize, bytes := b } ∧ t.kse = s.kse.engine) ∨
    (t.kse.done = false ∧ ClearedBy s.kse t.kse) := by
  rcases step_kse_cases h with ht | ⟨-, i, ht⟩ | ht | ⟨-, ht⟩ | ⟨-, ht⟩
  · exact .inl (by rw [ht])
  · exact .inl (by
      obtain ⟨-, -, hd, -⟩ := effect_leaves_sponge s.kse i
      rw [ht, hd])
  · rcases engine_done_locked s.kse with ⟨b, hp, hd, -⟩ | ⟨b, hp, hd, -⟩ | ⟨hd, -⟩
    · exact .inr (.inr ⟨by rw [ht, hd], .inl ⟨b, hp, ht⟩⟩)
    · exact .inr (.inl ⟨by rw [ht, hd], b, hp, ht⟩)
    · exact .inl (by rw [ht, hd])
  · exact .inr (.inr ⟨by rw [ht]; rfl, .inr ht⟩)
  · exact .inr (.inr ⟨by rw [ht]; rfl, .inr ht⟩)

theorem step_locked {s t : State} (h : step s = .next t) :
    t.kse.locked = s.kse.locked ∨
    (t.kse.locked = true ∧ s.kse.busy = false ∧ ∃ p, t.kse.pend = some p ∧ p.op ≠ .reset) ∨
    (t.kse.locked = false ∧ ClearedBy s.kse t.kse) := by
  rcases step_kse_cases h with ht | ⟨-, i, ht⟩ | ht | ⟨-, ht⟩ | ⟨-, ht⟩
  · exact .inl (by rw [ht])
  · rw [ht]
    rcases effect_locked s.kse i with hl | ⟨hb, hl, hp⟩
    · exact .inl hl
    · exact .inr (.inl ⟨hl, hb, hp⟩)
  · rcases engine_done_locked s.kse with ⟨b, hp, -, hl⟩ | ⟨-, -, -, hl⟩ | ⟨-, hl⟩
    · exact .inr (.inr ⟨by rw [ht, hl], .inl ⟨b, hp, ht⟩⟩)
    · exact .inl (by rw [ht, hl])
    · exact .inl (by rw [ht, hl])
  · exact .inr (.inr ⟨by rw [ht]; rfl, .inr ht⟩)
  · exact .inr (.inr ⟨by rw [ht]; rfl, .inr ht⟩)

/-- Settles O35: of the three things a step can do to each flag, its old and its new value leave one. -/
theorem doneAndLockedTransitions : Obligations.DoneAndLockedTransitions := by
  intro s t _ h
  have hdone := step_done h
  have hlocked := step_locked h
  refine ⟨fun hs ht => ?_, fun hs ht => ?_, fun hs ht => ?_, fun hs ht => ?_⟩
  · simpa [hs, ht] using hdone
  · have hcleared : ClearedBy s.kse t.kse := by simpa [hs, ht] using hdone
    exact hcleared
  · simpa [hs, ht] using hlocked
  · have hcleared : ClearedBy s.kse t.kse := by simpa [hs, ht] using hlocked
    exact hcleared

end Sys2Proof.Machine
end
